-- ==== Sys2Proof/Word.lean ====
section
/-! DEFINITION. The word types of the register window and the array port. -/

namespace Sys2Proof

/-- One 32-bit word of the register window (12, R183), and the 32 data lanes in one beat (07, 7.1). -/
abbrev Word := BitVec 32

/-- Eight bits: a pattern slot, a byte lane in one beat, an 8-bit counter. -/
abbrev Byte := BitVec 8

/-- A sequence number, wrapping within 0–255 (00, 2.4; R13). -/
abbrev Seq := BitVec 8

/-- One burst: beat `b` is a word whose bit `L` is lane `L` (07, 7.1). -/
abbrev Burst := Vector Word 8

end Sys2Proof
end

