-- ==== Sys2Proof/Config.lean ====
section
/-! DEFINITION. What the part fixes: the capacity of every collection and the identification codes.
The spec leaves no result value open, so there is no free value here. -/

namespace Sys2Proof.Config

/-- The intake queue holds 0 to 32 descriptors (R15). -/
def queueCapacity : Nat := 32
/-- The issue window holds 0 to 16 accesses (R38). -/
def windowCapacity : Nat := 16
/-- The in-flight read list holds 0 to 8 entries (R125). -/
def inFlightCapacity : Nat := 8
/-- The fail log holds 0 to 32 records (R140). -/
def failLogCapacity : Nat := 32
/-- The completion FIFO holds 0 to 16 records (R167). -/
def completionCapacity : Nat := 16
/-- An activation history holds 0 to 4 ages (R60). -/
def historyCapacity : Nat := 4
/-- A refresh debt never exceeds 8; at 8 it is urgent (R100, R88). -/
def urgentDebt : Nat := 8
/-- An activation age stops at 255 (R60). -/
def ageCeiling : Nat := 255
/-- An idle time stops at 4095 (R53). -/
def idleCeiling : Nat := 4095
/-- A bypass count stops at 63 (R41). -/
def bypassCeiling : Nat := 63
/-- A data phase is 4 tclk, and so is the read close wait (R65, R49). -/
def dataPhase : Nat := 4
/-- One unit of pause length is 1024 tclk (R4). -/
def pauseUnit : Nat := 1024
/-- A byte lane joins a burst within 2 tclk of its first edge, in 64ths of a tclk (R191). -/
def joinSpan : Nat := 128
/-- A burst is complete 6 tclk after it opened (R191). -/
def burstSpan : Nat := 6
/-- Identification word 0: family code 0x47, part number 4 (R186). -/
def identification : Word := 0x4704#32
/-- Identification word 1: revision 1 (R186). -/
def revision : Word := 1#32

end Sys2Proof.Config
end

