-- ==== Sys2Proof/Syntax.lean ====
section
/-! DEFINITION. The names the commands carry, and the commands: one constructor per row of
spec/opcode_table.json. The table gives the rows no fields; the operands are read from the rules (log 9). -/

namespace Sys2Proof

/-- Ranks 0 and 1 (00, 2.3). -/
inductive Rank
  | r0 | r1
deriving DecidableEq, Repr

/-- An index 0–3: a bank set, a bank within its set, a byte lane, a completion port word (00, 2.3). -/
inductive Quad
  | q0 | q1 | q2 | q3
deriving DecidableEq, Repr

/-- A bank, written (rank, set, bank) (00, 2.3). -/
structure BankAddr where
  rank : Rank
  bankSet : Quad
  bank : Quad
deriving DecidableEq, Repr

/-- A burst address (rank, set, bank, row, burst column); the key of a fail record (00, 2.3; R140). -/
structure Addr where
  bank : BankAddr
  row : Nat
  col : Nat
deriving DecidableEq, Repr

/-- The twenty timing parameters, in index order 1–20 (R65). -/
inductive TimingParam
  | openToAccess | openToClose | closeTime | openGapSameSet | openGapOtherSet
  | fourOpenWindow | accessGapSameSet | accessGapOtherSet | writeToReadSameSet | writeToReadOtherSet
  | readToWrite | rankSwitchGap | readLatency | writeLatency | writeRecovery
  | readTimeout | refreshInterval | refreshTime | pageHold | starveLimit
deriving DecidableEq, Repr

/-- The spacing monitor's holds, named with what they belong to (R71). -/
inductive HoldId
  | setOpen (rank : Rank) (bankSet : Quad)
  | setAccess (rank : Rank) (bankSet : Quad)
  | rankAccess (rank : Rank)
  | rankSwitch (rank : Rank)
  | setWriteToRead (rank : Rank) (bankSet : Quad)
  | rankWriteToRead (rank : Rank)
  | readToWrite (rank : Rank)
  | dataLane
deriving DecidableEq, Repr

/-- The causes a halt request can carry (R157). -/
inductive HaltCause
  | failLimit | targetAlert | readTimeout | strayData | refreshMissed
deriving DecidableEq, Repr

/-- The words of the register window, group by group (R186). -/
inductive WindowWord
  | family | revision
  | command | result
  | staging (i : Fin 8)
  | statusRun | statusQueue | statusCounts | statusEvents | statusAborts
  | bankStates (w : Quad)
  | rankStates
  | statistic (i : Fin 8)
  | timing (p : TimingParam)
  | geometry
  | refreshStatus | refreshMissed | haltOnMiss
  | slot (i : Fin 8)
  | ignoreMask
  | tap (lane : Quad)
  | completion (w : Quad)
  | failCount | failOverflow | recordIndex | viewState | failLimit
  | failRecord (w : Fin 5)
  | sweepEntry (tap : BitVec 5)
  | sweepStatus
  | flags | enables
  | badAccess
deriving DecidableEq, Repr

/-- One local-bus access as the pins carry it: direction (LWR_N low is a write), LA[10:2], the byte
enables that are asserted, and the data of a write (R183, R193). -/
structure BusAccess where
  isWrite : Bool
  la : BitVec 9
  be : BitVec 4
  data : Word
deriving DecidableEq, Repr

/-- The commands: one constructor per row of the table. `be` holds the asserted byte enables. -/
inductive Instr
  | powerOnReset
  | push
  | start
  | stop
  | resume
  | abort
  | softReset
  | popCompletion
  | failReleaseOldest
  | failClear
  /-- Bit 0 of the mask names rank 0, bit 1 names rank 1 (R185). -/
  | refreshEnable (mask : BitVec 2)
  | refreshDisable (mask : BitVec 2)
  | timingSetWrite (p : TimingParam) (be : BitVec 4) (value : Word)
  | geometryWrite (be : BitVec 4) (value : Word)
  | patternSlotWrite (slot : Fin 8) (be : BitVec 4) (value : Word)
  | laneIgnoreMaskWrite (be : BitVec 4) (value : Word)
  | tapWrite (lane : Quad) (be : BitVec 4) (value : Word)
  | recordIndexWrite (be : BitVec 4) (value : Word)
  | failLimitWrite (be : BitVec 4) (value : Word)
  | haltOnRefreshMissWrite (be : BitVec 4) (value : Word)
  | interruptFlagsWrite (be : BitVec 4) (value : Word)
  | interruptEnablesWrite (be : BitVec 4) (value : Word)
  | badAccessCounterWrite (be : BitVec 4) (value : Word)
  /-- A read of completion port word C0–C3. -/
  | completionPortRead (word : Quad) (be : BitVec 4)
  /-- A read of fail record word F0–F4. -/
  | failRecordRead (word : Fin 5) (be : BitVec 4)
  /-- Any local-bus access that no other row spells (log 8). -/
  | registerWrite (access : BusAccess)
  /-- A TCLK sample finds ALERT active (R192, log 12). -/
  | targetAlert
  | commandOpportunity
  | accessReadyExpiry (bank : BankAddr)
  | restoreExpiry (bank : BankAddr)
  | writeRecoveryExpiry (bank : BankAddr)
  | readCloseWaitExpiry (bank : BankAddr)
  | closeTimeExpiry (bank : BankAddr)
  | refreshTimeExpiry (rank : Rank)
  | holdExpiry (hold : HoldId)
  | pageHoldExpiry (bank : BankAddr)
  | intervalExpiry (rank : Rank)
  | pauseExpiry
  | deadlineExpiry
  | writeDataPhaseEnd
  | dataArrival
  | failOffer
  | haltRequest (cause : HaltCause)
  | fenceTake
  | accessPlacement
  | sweepTapSet
  | sweepReadPlacement
  | sweepEnd
  | retirement
  | drainEnd
  | abortEnd
  | settlePeriodEnd
  /-- An edge on byte lane `lane`'s strobe, `position` 64ths into the present tclk; `samples` holds the
  byte lane's eight lanes at each of the 32 capture points after the edge, tap 0 first (R191, log 10). -/
  | strobeEdge (lane : Quad) (position : Fin 64) (samples : Vector Byte 32)
  | alertInactiveSample
deriving DecidableEq, Repr

end Sys2Proof
end

