-- ==== Sys2Proof/Decode.lean ====
section
/-! DEFINITION. The register window's address decode with its inverse, the command a local-bus access
spells, and `decodeTableWord` (the table gives no row any bits, so it answers none). -/

namespace Sys2Proof

/-- The number 0–3 of an index. -/
def Quad.num : Quad → Nat
  | .q0 => 0
  | .q1 => 1
  | .q2 => 2
  | .q3 => 3

/-- The index whose number is the given one, its low two bits. -/
def Quad.ofNum (n : Nat) : Quad :=
  match n % 4 with
  | 0 => .q0
  | 1 => .q1
  | 2 => .q2
  | _ => .q3

/-- The number 0–1 of a rank. -/
def Rank.num : Rank → Nat
  | .r0 => 0
  | .r1 => 1

/-- The timing parameters in index order (R65). -/
def TimingParam.all : List TimingParam :=
  [.openToAccess, .openToClose, .closeTime, .openGapSameSet, .openGapOtherSet,
   .fourOpenWindow, .accessGapSameSet, .accessGapOtherSet, .writeToReadSameSet, .writeToReadOtherSet,
   .readToWrite, .rankSwitchGap, .readLatency, .writeLatency, .writeRecovery,
   .readTimeout, .refreshInterval, .refreshTime, .pageHold, .starveLimit]

/-- A parameter's index 1–20 (R65). -/
def TimingParam.index : TimingParam → Nat
  | .openToAccess => 1
  | .openToClose => 2
  | .closeTime => 3
  | .openGapSameSet => 4
  | .openGapOtherSet => 5
  | .fourOpenWindow => 6
  | .accessGapSameSet => 7
  | .accessGapOtherSet => 8
  | .writeToReadSameSet => 9
  | .writeToReadOtherSet => 10
  | .readToWrite => 11
  | .rankSwitchGap => 12
  | .readLatency => 13
  | .writeLatency => 14
  | .writeRecovery => 15
  | .readTimeout => 16
  | .refreshInterval => 17
  | .refreshTime => 18
  | .pageHold => 19
  | .starveLimit => 20

/-- The offset of each word (R186). -/
def WindowWord.offset : WindowWord → Nat
  | .family => 0x000
  | .revision => 0x004
  | .command => 0x010
  | .result => 0x014
  | .staging i => 0x020 + 4 * i.val
  | .statusRun => 0x040
  | .statusQueue => 0x044
  | .statusCounts => 0x048
  | .statusEvents => 0x04C
  | .statusAborts => 0x050
  | .bankStates w => 0x060 + 4 * w.num
  | .rankStates => 0x070
  | .statistic i => 0x080 + 4 * i.val
  | .timing p => 0x0C0 + 4 * (p.index - 1)
  | .geometry => 0x110
  | .refreshStatus => 0x120
  | .refreshMissed => 0x124
  | .haltOnMiss => 0x128
  | .slot i => 0x140 + 4 * i.val
  | .ignoreMask => 0x160
  | .tap k => 0x170 + 4 * k.num
  | .completion w => 0x180 + 4 * w.num
  | .failCount => 0x1A0
  | .failOverflow => 0x1A4
  | .recordIndex => 0x1A8
  | .viewState => 0x1AC
  | .failLimit => 0x1B0
  | .failRecord w => 0x1C0 + 4 * w.val
  | .sweepEntry t => 0x200 + 4 * t.toNat
  | .sweepStatus => 0x280
  | .flags => 0x2C0
  | .enables => 0x2C4
  | .badAccess => 0x2D0

/-- The words whose group has one word, by offset (R186). -/
def singleWordAt (offset : Nat) : Option WindowWord :=
  match offset with
  | 0x000 => some .family
  | 0x004 => some .revision
  | 0x010 => some .command
  | 0x014 => some .result
  | 0x040 => some .statusRun
  | 0x044 => some .statusQueue
  | 0x048 => some .statusCounts
  | 0x04C => some .statusEvents
  | 0x050 => some .statusAborts
  | 0x070 => some .rankStates
  | 0x110 => some .geometry
  | 0x120 => some .refreshStatus
  | 0x124 => some .refreshMissed
  | 0x128 => some .haltOnMiss
  | 0x160 => some .ignoreMask
  | 0x1A0 => some .failCount
  | 0x1A4 => some .failOverflow
  | 0x1A8 => some .recordIndex
  | 0x1AC => some .viewState
  | 0x1B0 => some .failLimit
  | 0x280 => some .sweepStatus
  | 0x2C0 => some .flags
  | 0x2C4 => some .enables
  | 0x2D0 => some .badAccess
  | _ => none

/-- The word at a word-aligned offset, or none where no group defines one (R186). -/
def wordAt (offset : Nat) : Option WindowWord :=
  if h : 0x020 ≤ offset ∧ offset < 0x040 then some (.staging ⟨(offset - 0x020) / 4, by omega⟩)
  else if 0x060 ≤ offset ∧ offset < 0x070 then some (.bankStates (.ofNum ((offset - 0x060) / 4)))
  else if h : 0x080 ≤ offset ∧ offset < 0x0A0 then some (.statistic ⟨(offset - 0x080) / 4, by omega⟩)
  else if 0x0C0 ≤ offset ∧ offset < 0x110 then (TimingParam.all[(offset - 0x0C0) / 4]?).map .timing
  else if h : 0x140 ≤ offset ∧ offset < 0x160 then some (.slot ⟨(offset - 0x140) / 4, by omega⟩)
  else if 0x170 ≤ offset ∧ offset < 0x180 then some (.tap (.ofNum ((offset - 0x170) / 4)))
  else if 0x180 ≤ offset ∧ offset < 0x190 then some (.completion (.ofNum ((offset - 0x180) / 4)))
  else if h : 0x1C0 ≤ offset ∧ offset < 0x1D4 then some (.failRecord ⟨(offset - 0x1C0) / 4, by omega⟩)
  else if 0x200 ≤ offset ∧ offset < 0x280 then some (.sweepEntry (.ofNat 5 ((offset - 0x200) / 4)))
  else singleWordAt offset

/-- The word an access names by LA[10:2] (R183). -/
def BusAccess.word (a : BusAccess) : Option WindowWord := wordAt (4 * a.la.toNat)

/-- All four byte enables are asserted: a 32-bit access (R183). -/
def fullEnables (be : BitVec 4) : Bool := be == 0xF#4

/-- The engine command a word written to the engine command register names, with the rank mask in bits
9–8; codes 0 and 12–15 name none (R185). -/
def engineCommandOf (value : Word) : Option Instr :=
  match (value.extractLsb' 0 4).toNat with
  | 1 => some .push
  | 2 => some .start
  | 3 => some .stop
  | 4 => some .resume
  | 5 => some .abort
  | 6 => some .softReset
  | 7 => some .popCompletion
  | 8 => some .failReleaseOldest
  | 9 => some .failClear
  | 10 => some (.refreshEnable (value.extractLsb' 8 2))
  | 11 => some (.refreshDisable (value.extractLsb' 8 2))
  | _ => none

/-- The row that spells a write of `value` to a word, or none for a word without a row of its own. -/
def writeRowOf (w : WindowWord) (be : BitVec 4) (value : Word) : Option Instr :=
  match w with
  | .command => if fullEnables be then engineCommandOf value else none
  | .timing p => some (.timingSetWrite p be value)
  | .geometry => some (.geometryWrite be value)
  | .slot i => some (.patternSlotWrite i be value)
  | .ignoreMask => some (.laneIgnoreMaskWrite be value)
  | .tap k => some (.tapWrite k be value)
  | .recordIndex => some (.recordIndexWrite be value)
  | .failLimit => some (.failLimitWrite be value)
  | .haltOnMiss => some (.haltOnRefreshMissWrite be value)
  | .flags => some (.interruptFlagsWrite be value)
  | .enables => some (.interruptEnablesWrite be value)
  | .badAccess => some (.badAccessCounterWrite be value)
  | .family => none
  | .revision => none
  | .result => none
  | .staging _ => none
  | .statusRun => none
  | .statusQueue => none
  | .statusCounts => none
  | .statusEvents => none
  | .statusAborts => none
  | .bankStates _ => none
  | .rankStates => none
  | .statistic _ => none
  | .refreshStatus => none
  | .refreshMissed => none
  | .completion _ => none
  | .failCount => none
  | .failOverflow => none
  | .viewState => none
  | .failRecord _ => none
  | .sweepEntry _ => none
  | .sweepStatus => none

/-- The row that spells a read of a word, or none for a word whose read has no row of its own. -/
def readRowOf (w : WindowWord) (be : BitVec 4) : Option Instr :=
  match w with
  | .completion k => some (.completionPortRead k be)
  | .failRecord k => some (.failRecordRead k be)
  | _ => none

/-- The row of its own that an access has, if any. -/
def ownRowOf (a : BusAccess) : Option Instr :=
  match a.word with
  | some w => if a.isWrite then writeRowOf w a.be a.data else readRowOf w a.be
  | none => none

/-- The command of the table that a local-bus access is. -/
def commandOf (a : BusAccess) : Instr :=
  match ownRowOf a with
  | some i => i
  | none => .registerWrite a

/-- The command a word spells by the table's bits: the table gives no row any bits (log 19). -/
def decodeTableWord (_nbits _w : Nat) : Option Instr := none

end Sys2Proof
end

