-- ==== Sys2Proof/Machine/State.lean ====
section
/-! DEFINITION. The state of the part, block by block, and its value right after power-on reset. Every
field is plain data; INVENTORY.md lists each with its rule and its reset value. -/

namespace Sys2Proof.Machine

/-! ## Shared shapes -/

/-- One value for each rank. -/
structure PerRank (α : Type) where
  r0 : α
  r1 : α
deriving DecidableEq, Repr

/-- One value for each index 0–3. -/
structure PerQuad (α : Type) where
  q0 : α
  q1 : α
  q2 : α
  q3 : α
deriving DecidableEq, Repr

/-- A countdown of tclk. `running 0` has run out and its expiry has not been taken yet (log 3). -/
inductive Timer
  | stopped
  | running (remaining : Nat)
deriving DecidableEq, Repr

/-! ## Register window (12) -/

/-- The result codes of the engine result register; `none` before any command (R185). -/
inductive ResultCode
  | none | accepted | queueFull | badKind | badAddress | badSweep | badPause
  | engineBusy | wrongState | configInvalid | empty
deriving DecidableEq, Repr

/-- What the register window itself holds. -/
structure HostPort where
  /-- Staging words 0–7 (R6). -/
  staging : Vector Word 8
  /-- Code of the last engine command taken (R185). -/
  commandCode : BitVec 4
  /-- Mask of the last engine command taken (R185). -/
  commandMask : BitVec 2
  /-- Result of the last engine command (R185). -/
  resultCode : ResultCode
  resultDetail : Byte
  /-- Bad-access counter, saturating (R184). -/
  badAccesses : Byte
  /-- The word the last read returned on LD[31:0] (log 8). -/
  readData : Word
deriving DecidableEq, Repr

/-! ## Timing set and geometry (04) -/

/-- A timing set: the twenty parameters, each 16 bits (R65, R67). -/
structure TimingSet where
  openToAccess : BitVec 16
  openToClose : BitVec 16
  closeTime : BitVec 16
  openGapSameSet : BitVec 16
  openGapOtherSet : BitVec 16
  fourOpenWindow : BitVec 16
  accessGapSameSet : BitVec 16
  accessGapOtherSet : BitVec 16
  writeToReadSameSet : BitVec 16
  writeToReadOtherSet : BitVec 16
  readToWrite : BitVec 16
  rankSwitchGap : BitVec 16
  readLatency : BitVec 16
  writeLatency : BitVec 16
  writeRecovery : BitVec 16
  readTimeout : BitVec 16
  refreshInterval : BitVec 16
  refreshTime : BitVec 16
  pageHold : BitVec 16
  starveLimit : BitVec 16
deriving DecidableEq, Repr

/-- The geometry as written (R70, R186). -/
structure Geometry where
  ranksPresent : BitVec 2
  rowsCode : BitVec 5
  burstsPerRow : Byte
deriving DecidableEq, Repr

structure TimingBlock where
  /-- What the host writes and reads back (R66). -/
  stored : TimingSet
  /-- What every timer, hold and comparison uses (R66). -/
  working : TimingSet
  geometry : Geometry
deriving DecidableEq, Repr

/-! ## Descriptors and the intake queue (01) -/

inductive Format
  | uniform | held | rotated | address
deriving DecidableEq, Repr

inductive Walk
  | rowMajor | columnMajor
deriving DecidableEq, Repr

inductive ClosePolicy
  | keep | closeRowEnd | closeEach
deriving DecidableEq, Repr

/-- The pattern fields of a descriptor: a slot by number, not its contents (R3). -/
structure PatternFields where
  slot : Fin 8
  format : Format
  invert : Bool
deriving DecidableEq, Repr

inductive RegionKind
  | write | read | checkWrite
deriving DecidableEq, Repr

/-- The fields of a WRITE, READ or CHECK_WRITE (R1). -/
structure Region where
  kind : RegionKind
  fence : Bool
  bank : BankAddr
  rowFirst : Nat
  rowCount : Nat
  colFirst : Nat
  colCount : Nat
  walk : Walk
  pattern : PatternFields
  close : ClosePolicy
deriving DecidableEq, Repr

/-- The fields of a SWEEP (R5). -/
structure SweepFields where
  addr : Addr
  pattern : PatternFields
  lane : Quad
  tapFirst : BitVec 5
  tapLast : BitVec 5
  readsPerTap : Nat
  applyWindow : Bool
deriving DecidableEq, Repr

/-- A descriptor's kind with the fields that belong to it (R1). -/
inductive Work
  | region (r : Region)
  | pause (length : BitVec 16) (holdRefresh : PerRank Bool)
  | marker (code : Byte)
  | sweep (f : SweepFields)
deriving DecidableEq, Repr

/-- Lifecycle states (01, 1.5). -/
inductive Lifecycle
  | waiting | expanding | expanded | complete
deriving DecidableEq, Repr

/-- What a SWEEP's completion record says of its window (R178). -/
structure SweepResult where
  found : Bool
  first : BitVec 5
  last : BitVec 5
  width : BitVec 6
  tapLeft : BitVec 5
deriving DecidableEq, Repr

/-- A held descriptor (R1, R13). -/
structure Descriptor where
  seq : Seq
  work : Work
  life : Lifecycle
  total : Nat
  issued : Nat
  completed : Nat
  /-- 0–65535, saturating (R20). -/
  miscompares : BitVec 16
  /-- 0–255, saturating (R20). -/
  lost : Byte
  cutShort : Bool
  /-- Written at the end of a SWEEP, for its completion record (R178). -/
  sweepResult : SweepResult
deriving DecidableEq, Repr

structure Intake where
  /-- Push order, the head first (R15). -/
  queue : List Descriptor
  nextSeq : Seq
deriving DecidableEq, Repr

/-! ## Expander, sweep in hand and issue window (02, 11) -/

/-- The steps of a sweep: SWEEP_SETTLE, SWEEP_READS, SWEEP_COLLECT (R22). -/
inductive SweepStep
  | settle | reads | collect
deriving DecidableEq, Repr

/-- What the alignment sweep unit holds for the SWEEP in hand (11, 11.2). -/
structure Sweep where
  seq : Seq
  fields : SweepFields
  originalTap : BitVec 5
  tapUnderTest : BitVec 5
  readsPlaced : Nat
  readsOutstanding : Nat
  mismatches : Nat
  stopMark : Bool
  abortMark : Bool
  /-- The last tap has finished and the end of R178 has not been taken yet (log 13). -/
  endDue : Bool
deriving DecidableEq, Repr

/-- The expander's state with the descriptor in hand (R22). -/
inductive Expander
  | idle
  /-- EXPANDING, at walk position (row, col). -/
  | expanding (seq : Seq) (row col : Nat)
  | fenceWait (seq : Seq)
  /-- PAUSING, with the pause timer's remaining tclk. -/
  | pausing (seq : Seq) (remaining : Nat)
  /-- SWEEP_SETTLE, SWEEP_READS or SWEEP_COLLECT. -/
  | sweeping (step : SweepStep) (sweep : Sweep)
deriving DecidableEq, Repr

/-- The pattern specification of an access: the pattern fields with a copy of all eight slots (R113). -/
structure PatternSpec where
  fields : PatternFields
  slots : Vector Byte 8
deriving DecidableEq, Repr

inductive AccessOp
  | read | write
deriving DecidableEq, Repr

/-- One access of the issue window (R38). -/
structure Access where
  seq : Seq
  op : AccessOp
  addr : Addr
  pattern : PatternSpec
  closeAfter : Bool
  sweepRead : Bool
  /-- 0–63 (R41). -/
  bypass : Nat
deriving DecidableEq, Repr

/-! ## Bank table (03) -/

/-- Bank states, with the open row where there is one (R45). -/
inductive BankState
  | unknown
  | closed
  | opening (row : Nat)
  | opened (row : Nat)
  | closing
deriving DecidableEq, Repr

/-- A bank record (R43). A restore timer that is not running has expired. -/
structure BankRecord where
  state : BankState
  accessReady : Timer
  restore : Timer
  writePhases : Nat
  writeRecovery : Timer
  readCloseWait : Timer
  closePending : Bool
  idle : Nat
  closeTime : Timer
deriving DecidableEq, Repr

inductive RankState
  | ready | refreshing
deriving DecidableEq, Repr

/-- A rank's refresh interval timer (R100). `running 0` has run out and its expiry is not taken yet. -/
inductive IntervalTimer
  | stopped
  | running (remaining : Nat)
  | held (remaining : Nat)
deriving DecidableEq, Repr

/-- A rank record (R44). -/
structure RankRecord where
  /-- Ages of the most recent OPENs, oldest first (R60). -/
  history : List Nat
  state : RankState
  refreshTime : Timer
  recoveryNeeded : Bool
  debt : Nat
  interval : IntervalTimer
deriving DecidableEq, Repr

/-- The 32 bank records, by rank, set and bank. -/
abbrev Banks := PerRank (PerQuad (PerQuad BankRecord))

/-! ## Spacing monitor (04) and issue arbiter (05) -/

/-- The holds of R71. A hold with no tclk remaining has expired. -/
structure Holds where
  setOpen : PerRank (PerQuad Timer)
  setAccess : PerRank (PerQuad Timer)
  rankAccess : PerRank Timer
  rankSwitch : PerRank Timer
  setWriteToRead : PerRank (PerQuad Timer)
  rankWriteToRead : PerRank Timer
  readToWrite : PerRank Timer
  dataLane : Timer
deriving DecidableEq, Repr

/-- What the command bus carries in one tclk (R190). -/
structure CommandBus where
  op : BitVec 3
  rank : BitVec 1
  bankSet : BitVec 2
  bank : BitVec 2
  addr : BitVec 17
deriving DecidableEq, Repr

/-- The encoding of no command (R190). -/
def CommandBus.noCommand : CommandBus := ⟨0, 0, 0, 0, 0⟩

structure Arbiter where
  /-- Banks whose close pending is yes, oldest first (R91). -/
  pendingClose : List BankAddr
  /-- Rung of the last command issued, 0 before any (R99). -/
  lastRung : Nat
  /-- What the latest opportunity drove (R190). -/
  bus : CommandBus
deriving DecidableEq, Repr

/-! ## Refresh upkeep (06) and pattern unit (07) -/

structure RefreshControl where
  enable : PerRank Bool
  /-- 0–255, saturating (R104). -/
  missed : Byte
  haltOnMiss : Bool
deriving DecidableEq, Repr

structure PatternUnit where
  slots : Vector Byte 8
  /-- Bit `L` set: lane `L` is ignored (R121). -/
  ignoreMask : Word
deriving DecidableEq, Repr

/-! ## Read return and compare (08) -/

/-- An entry of the in-flight read list (R125). -/
structure InFlight where
  seq : Seq
  addr : Addr
  pattern : PatternSpec
  sweepRead : Bool
  deadline : Nat
deriving DecidableEq, Repr

/-- An entry of the write phase list (R135), with what its data is produced from (R119). -/
structure WritePhase where
  seq : Seq
  addr : Addr
  pattern : PatternSpec
  remaining : Nat
deriving DecidableEq, Repr

structure ReadReturn where
  /-- Oldest first (R125). -/
  inFlight : List InFlight
  /-- Oldest first (R135). -/
  writePhases : List WritePhase
  timeouts : Byte
  strays : Byte
  failLimit : BitVec 16
deriving DecidableEq, Repr

/-! ## Fail log (09) -/

/-- A fail record (R140). -/
structure FailRecord where
  key : Addr
  laneMask : Word
  beatMask : Byte
  firstSeq : Seq
  lastSeq : Seq
  hits : BitVec 16
deriving DecidableEq, Repr

/-- The record view (R148). -/
inductive RecordView
  | empty
  | byIndex (r : FailRecord)
  | released (r : FailRecord)
deriving DecidableEq, Repr

structure FailLog where
  /-- Oldest first (R140). -/
  records : List FailRecord
  overflow : BitVec 16
  index : Byte
  view : RecordView
deriving DecidableEq, Repr

/-! ## Taps and sweep table (11) -/

/-- A sweep table entry (R173). -/
structure SweepEntry where
  tested : Bool
  count : Byte
deriving DecidableEq, Repr

structure SweepUnit where
  taps : PerQuad (BitVec 5)
  table : Vector SweepEntry 32
deriving DecidableEq, Repr

/-! ## Run control (10) -/

inductive RunState
  | idle | running | draining | halted | aborting
deriving DecidableEq, Repr

/-- The run statistics (R168). -/
structure Stats where
  opens : Word
  closes : Word
  readsIssued : Word
  writesIssued : Word
  readsCompleted : Word
  readsLost : Word
  refreshes : Word
  miscompares : BitVec 16
deriving DecidableEq, Repr

inductive Kind
  | write | read | checkWrite | pause | marker | sweep
deriving DecidableEq, Repr

inductive Status
  | done | miscompare | lost | cutShort
deriving DecidableEq, Repr

/-- The kind detail of a completion record (R166). -/
inductive KindDetail
  | none
  | marker (code : Byte)
  | sweep (r : SweepResult)
deriving DecidableEq, Repr

/-- A completion record (R166). -/
structure CompletionRecord where
  seq : Seq
  kind : Kind
  status : Status
  issued : Nat
  miscompares : BitVec 16
  lost : Byte
  detail : KindDetail
deriving DecidableEq, Repr

/-- A settle period in progress: tclk since its SOFT_RESET, and its length from there (R164). -/
structure Settle where
  elapsed : Nat
  length : Nat
deriving DecidableEq, Repr

structure RunControl where
  state : RunState
  /-- The halt record; no cause is NONE (R158). -/
  haltCause : Option HaltCause
  drainRequested : Bool
  stats : Stats
  /-- The completion FIFO, oldest first (R167). -/
  completions : List CompletionRecord
  /-- Interrupt flags, bits as at offset 0x2C0 (R169, R186). -/
  flags : BitVec 6
  /-- Interrupt enables, same bits (R170). -/
  enables : BitVec 6
  alerts : Byte
  abortDiscards : Byte
  settle : Option Settle
deriving DecidableEq, Repr

/-! ## Messages between blocks, and the array port's capture (08, 10, 12) -/

/-- An offer on its way to the fail log (R129). -/
structure Offer where
  key : Addr
  laneMask : Word
  beatMask : Byte
  seq : Seq
deriving DecidableEq, Repr

structure Messages where
  /-- Halt requests sent and not yet taken (R157). -/
  haltRequests : List HaltCause
  /-- Offers sent and not yet taken, in arrival order (R144). -/
  offers : List Offer
deriving DecidableEq, Repr

/-- A burst being captured (R191): position of its first edge in 64ths of a tclk, the tclk ends since,
and the beats each byte lane has captured, first beat first (a byte lane with a beat has joined). -/
structure OpenBurst where
  position : Nat
  age : Nat
  beats : PerQuad (List Byte)
  /-- It opened during a settle period. -/
  discard : Bool
deriving DecidableEq, Repr

structure Capture where
  burst : Option OpenBurst
  /-- Complete bursts whose data arrival has not been taken, oldest first. -/
  arrivals : List Burst
  /-- The previous sample found ALERT active (R192). -/
  alertWasActive : Bool
deriving DecidableEq, Repr

/-! ## The whole -/

structure State where
  /-- Commands waiting, first in first out. -/
  pending : List Instr
  host : HostPort
  timing : TimingBlock
  intake : Intake
  expander : Expander
  refreshHold : PerRank Bool
  window : List Access
  banks : Banks
  ranks : PerRank RankRecord
  holds : Holds
  arbiter : Arbiter
  refresh : RefreshControl
  pattern : PatternUnit
  reads : ReadReturn
  failLog : FailLog
  sweep : SweepUnit
  run : RunControl
  messages : Messages
  capture : Capture
deriving DecidableEq, Repr

/-- The reasons the part could stop with. There is none: the spec answers every error with a count, a
result code or a halt request. -/
inductive Fault
deriving DecidableEq, Repr

/-- The reasons a command has no meaning. -/
inductive Refusal
  /-- Raised by a dispatch arm whose command has no meaning yet; safe. No arm raises it. -/
  | notModelled (mnemonic : String)
deriving DecidableEq, Repr

/-! ## After power-on reset -/

/-- The power-on timing set (R65). -/
def TimingSet.powerOn : TimingSet where
  openToAccess := 14
  openToClose := 32
  closeTime := 14
  openGapSameSet := 6
  openGapOtherSet := 4
  fourOpenWindow := 24
  accessGapSameSet := 6
  accessGapOtherSet := 4
  writeToReadSameSet := 8
  writeToReadOtherSet := 3
  readToWrite := 8
  rankSwitchGap := 2
  readLatency := 16
  writeLatency := 12
  writeRecovery := 16
  readTimeout := 64
  refreshInterval := 7800
  refreshTime := 350
  pageHold := 0
  starveLimit := 16

/-- A bank record after power-on reset (R43) and after SOFT_RESET (R62). -/
def BankRecord.initial : BankRecord where
  state := .unknown
  accessReady := .stopped
  restore := .stopped
  writePhases := 0
  writeRecovery := .stopped
  readCloseWait := .stopped
  closePending := false
  idle := 0
  closeTime := .stopped

/-- A rank record after power-on reset (R44, R100). -/
def RankRecord.initial : RankRecord where
  history := []
  state := .ready
  refreshTime := .stopped
  recoveryNeeded := true
  debt := 0
  interval := .stopped

/-- The same value for both ranks. -/
def PerRank.all {α : Type} (x : α) : PerRank α := ⟨x, x⟩

/-- The same value for the four indexes. -/
def PerQuad.all {α : Type} (x : α) : PerQuad α := ⟨x, x, x, x⟩

/-- Every hold expired (R71). -/
def Holds.expired : Holds where
  setOpen := .all (.all .stopped)
  setAccess := .all (.all .stopped)
  rankAccess := .all .stopped
  rankSwitch := .all .stopped
  setWriteToRead := .all (.all .stopped)
  rankWriteToRead := .all .stopped
  readToWrite := .all .stopped
  dataLane := .stopped

/-- Every statistic 0 (R168). -/
def Stats.zero : Stats := ⟨0, 0, 0, 0, 0, 0, 0, 0⟩

/-- The whole part right after power-on reset (R193). -/
def State.reset : State where
  pending := []
  host :=
    { staging := .replicate 8 0
      commandCode := 0
      commandMask := 0
      resultCode := .none
      resultDetail := 0
      badAccesses := 0
      readData := 0 }
  timing :=
    { stored := .powerOn
      working := .powerOn
      geometry := { ranksPresent := 1, rowsCode := 15, burstsPerRow := 128 } }
  intake := { queue := [], nextSeq := 0 }
  expander := .idle
  refreshHold := .all false
  window := []
  banks := .all (.all (.all .initial))
  ranks := .all .initial
  holds := .expired
  arbiter := { pendingClose := [], lastRung := 0, bus := .noCommand }
  refresh := { enable := .all false, missed := 0, haltOnMiss := false }
  pattern := { slots := .replicate 8 0, ignoreMask := 0 }
  reads := { inFlight := [], writePhases := [], timeouts := 0, strays := 0, failLimit := 0 }
  failLog := { records := [], overflow := 0, index := 0, view := .empty }
  sweep := { taps := .all 16, table := .replicate 32 ⟨false, 0⟩ }
  run :=
    { state := .idle
      haltCause := none
      drainRequested := false
      stats := .zero
      completions := []
      flags := 0
      enables := 0
      alerts := 0
      abortDiscards := 0
      settle := none }
  messages := { haltRequests := [], offers := [] }
  capture := { burst := none, arrivals := [], alertWasActive := true }

end Sys2Proof.Machine
end

