-- ==== Sys2Proof/Machine/Ops.lean ====
section
/-! DEFINITION. The shared operations over the state: counters, timers, the per-rank and per-bank
records, the queue of descriptors, the messages, and the answers to the host. -/

namespace Sys2Proof.Machine

/-! ## Counters (00, 2.4) -/

/-- A saturating counter raised by 1. -/
def satInc {w : Nat} (x : BitVec w) : BitVec w :=
  if x = BitVec.allOnes w then x else x + 1

/-- A saturating counter raised by `n`. -/
def satAdd {w : Nat} (x : BitVec w) (n : Nat) : BitVec w :=
  if x.toNat + n < 2 ^ w then BitVec.ofNat w (x.toNat + n) else BitVec.allOnes w

/-! ## Timers -/

/-- The tclk left to run; 0 when stopped or run out. -/
def Timer.remaining : Timer → Nat
  | .stopped => 0
  | .running n => n

/-- The timer has not expired: it runs, or its expiry has not been taken. -/
def Timer.isRunning : Timer → Bool
  | .stopped => false
  | .running _ => true

/-- The count has run out and the expiry has not been taken. -/
def Timer.isDue : Timer → Bool
  | .running 0 => true
  | _ => false

/-- The expiry: a timer that has run out stops; any other is left. -/
def Timer.expire : Timer → Timer
  | .running 0 => .stopped
  | t => t

/-- One tclk passes: a running count falls by 1. -/
def Timer.count : Timer → Timer
  | .running (n + 1) => .running n
  | t => t

/-- The start of a hold: the larger of what remains and the start value (R71). -/
def Timer.extend (t : Timer) (v : Nat) : Timer := .running (max t.remaining v)

/-! ## Per-rank and per-index values -/

def PerRank.get {α : Type} (p : PerRank α) : Rank → α
  | .r0 => p.r0
  | .r1 => p.r1

def PerRank.modify {α : Type} (p : PerRank α) (r : Rank) (f : α → α) : PerRank α :=
  match r with
  | .r0 => { p with r0 := f p.r0 }
  | .r1 => { p with r1 := f p.r1 }

def PerRank.map {α β : Type} (f : α → β) (p : PerRank α) : PerRank β := ⟨f p.r0, f p.r1⟩

/-- A value for each rank from the rank. -/
def PerRank.tabulate {α : Type} (f : Rank → α) : PerRank α := ⟨f .r0, f .r1⟩

def PerRank.toList {α : Type} (p : PerRank α) : List α := [p.r0, p.r1]

def PerQuad.get {α : Type} (p : PerQuad α) : Quad → α
  | .q0 => p.q0
  | .q1 => p.q1
  | .q2 => p.q2
  | .q3 => p.q3

def PerQuad.modify {α : Type} (p : PerQuad α) (k : Quad) (f : α → α) : PerQuad α :=
  match k with
  | .q0 => { p with q0 := f p.q0 }
  | .q1 => { p with q1 := f p.q1 }
  | .q2 => { p with q2 := f p.q2 }
  | .q3 => { p with q3 := f p.q3 }

def PerQuad.map {α β : Type} (f : α → β) (p : PerQuad α) : PerQuad β :=
  ⟨f p.q0, f p.q1, f p.q2, f p.q3⟩

def PerQuad.toList {α : Type} (p : PerQuad α) : List α := [p.q0, p.q1, p.q2, p.q3]

def bothRanks : List Rank := [.r0, .r1]

def allQuads : List Quad := [.q0, .q1, .q2, .q3]

/-- The other rank (R76). -/
def otherRank : Rank → Rank
  | .r0 => .r1
  | .r1 => .r0

/-- The sixteen banks of a rank in bank order. -/
def banksOfRank (r : Rank) : List BankAddr :=
  allQuads.flatMap fun g => allQuads.map fun b => ⟨r, g, b⟩

/-- The 32 banks in bank order (rank, set, bank) (R187). -/
def allBanks : List BankAddr := bothRanks.flatMap banksOfRank

/-- The bank number 16 × rank + 4 × set + bank (R187). -/
def bankNumber (b : BankAddr) : Nat := 16 * b.rank.num + 4 * b.bankSet.num + b.bank.num

/-! ## Bank and rank records -/

def bankAt (s : State) (b : BankAddr) : BankRecord :=
  ((s.banks.get b.rank).get b.bankSet).get b.bank

def modifyBank (b : BankAddr) (f : BankRecord → BankRecord) (s : State) : State :=
  { s with banks := s.banks.modify b.rank fun g => g.modify b.bankSet fun k => k.modify b.bank f }

/-- Every bank of one rank. -/
def modifyRankBanks (r : Rank) (f : BankRecord → BankRecord) (s : State) : State :=
  { s with banks := s.banks.modify r (PerQuad.map (PerQuad.map f)) }

/-- Every bank of both ranks. -/
def mapBanks (f : BankRecord → BankRecord) (s : State) : State :=
  { s with banks := s.banks.map (PerQuad.map (PerQuad.map f)) }

/-- The records of one rank's banks, in bank order. -/
def rankBankRecords (s : State) (r : Rank) : List BankRecord :=
  (s.banks.get r).toList.flatMap PerQuad.toList

def rankAt (s : State) (r : Rank) : RankRecord := s.ranks.get r

def modifyRank (r : Rank) (f : RankRecord → RankRecord) (s : State) : State :=
  { s with ranks := s.ranks.modify r f }

/-! ## Geometry in force (R70) -/

/-- Rank 0 is always present; rank 1 when the stored ranks present is 2. -/
def Geometry.present (g : Geometry) : Rank → Bool
  | .r0 => true
  | .r1 => g.ranksPresent == 2

/-- rows is 2 raised to the stored rows code. -/
def Geometry.rows (g : Geometry) : Nat := 2 ^ g.rowsCode.toNat

def Geometry.bursts (g : Geometry) : Nat := g.burstsPerRow.toNat

def isPresent (s : State) (r : Rank) : Bool := s.timing.geometry.present r

/-- The present ranks in rank order (R83). -/
def presentRanks (s : State) : List Rank := bothRanks.filter (isPresent s)

/-! ## Holds (R71) -/

def Holds.get (h : Holds) : HoldId → Timer
  | .setOpen r g => (h.setOpen.get r).get g
  | .setAccess r g => (h.setAccess.get r).get g
  | .rankAccess r => h.rankAccess.get r
  | .rankSwitch r => h.rankSwitch.get r
  | .setWriteToRead r g => (h.setWriteToRead.get r).get g
  | .rankWriteToRead r => h.rankWriteToRead.get r
  | .readToWrite r => h.readToWrite.get r
  | .dataLane => h.dataLane

def Holds.modify (h : Holds) (i : HoldId) (f : Timer → Timer) : Holds :=
  match i with
  | .setOpen r g => { h with setOpen := h.setOpen.modify r fun p => p.modify g f }
  | .setAccess r g => { h with setAccess := h.setAccess.modify r fun p => p.modify g f }
  | .rankAccess r => { h with rankAccess := h.rankAccess.modify r f }
  | .rankSwitch r => { h with rankSwitch := h.rankSwitch.modify r f }
  | .setWriteToRead r g => { h with setWriteToRead := h.setWriteToRead.modify r fun p => p.modify g f }
  | .rankWriteToRead r => { h with rankWriteToRead := h.rankWriteToRead.modify r f }
  | .readToWrite r => { h with readToWrite := h.readToWrite.modify r f }
  | .dataLane => { h with dataLane := f h.dataLane }

/-- The same change to every hold. -/
def Holds.map (h : Holds) (f : Timer → Timer) : Holds where
  setOpen := h.setOpen.map (PerQuad.map f)
  setAccess := h.setAccess.map (PerQuad.map f)
  rankAccess := h.rankAccess.map f
  rankSwitch := h.rankSwitch.map f
  setWriteToRead := h.setWriteToRead.map (PerQuad.map f)
  rankWriteToRead := h.rankWriteToRead.map f
  readToWrite := h.readToWrite.map f
  dataLane := f h.dataLane

/-- A hold is started: the larger of its remaining count and the start value (R71). -/
def startHold (i : HoldId) (v : Nat) (s : State) : State :=
  { s with holds := s.holds.modify i fun t => t.extend v }

/-- A hold blocks its commands while a tclk of it remains (R71). -/
def holdExpired (s : State) (i : HoldId) : Bool := (s.holds.get i).remaining == 0

/-! ## The intake queue's descriptors -/

def findDescriptor (s : State) (q : Seq) : Option Descriptor :=
  s.intake.queue.find? fun d => d.seq == q

/-- The held descriptor with a seq is changed; every other is left. -/
def modifyDescriptor (q : Seq) (f : Descriptor → Descriptor) (s : State) : State :=
  { s with intake.queue := s.intake.queue.map fun d => if d.seq = q then f d else d }

def setLife (q : Seq) (l : Lifecycle) (s : State) : State :=
  modifyDescriptor q (fun d => { d with life := l }) s

/-- An access of the descriptor ends: completed rises by 1, and in EXPANDED reaching the total makes it
COMPLETE, but in ABORTING every held descriptor keeps its lifecycle state (R17, R19). -/
def Descriptor.completeAccess (d : Descriptor) (st : RunState) : Descriptor :=
  { d with
    completed := d.completed + 1
    life :=
      if st ≠ .aborting ∧ d.life = .expanded ∧ d.completed + 1 = d.total then .complete else d.life }

def completeAccess (q : Seq) (s : State) : State :=
  modifyDescriptor q (fun d => d.completeAccess s.run.state) s

/-- The seq of the head, if any descriptor is held. -/
def headSeq? (s : State) : Option Seq := s.intake.queue.head?.map Descriptor.seq

/-! ## Messages (R157, R129) -/

def sendHalt (c : HaltCause) (s : State) : State :=
  { s with messages.haltRequests := s.messages.haltRequests ++ [c] }

def sendOffer (o : Offer) (s : State) : State :=
  { s with messages.offers := s.messages.offers ++ [o] }

/-! ## Answers to the host (R184, R185) -/

def countBadAccess (s : State) : State :=
  { s with host.badAccesses := satInc s.host.badAccesses }

/-- The engine result register shows a code with its detail (R185). -/
def answer (c : ResultCode) (detail : Byte) (s : State) : State :=
  { s with host.resultCode := c, host.resultDetail := detail }

/-- An engine command is taken: its code and mask show in the engine command register (R185, log 7). -/
def takeCommand (code : BitVec 4) (mask : BitVec 2) (s : State) : State :=
  { s with host.commandCode := code, host.commandMask := mask }

/-- A write is performed when all four byte enables are asserted, and is a bad access otherwise (R183). -/
def ifFull (be : BitVec 4) (f : State → State) (s : State) : State :=
  if fullEnables be then f s else countBadAccess s

/-- A write to an RW-I word: performed in IDLE, a bad access in any other run state (00, 2.5; R183). -/
def ifIdle (f : State → State) (s : State) : State :=
  if s.run.state = .idle then f s else countBadAccess s

/-! ## Expander, taps and lists -/

def setExpander (e : Expander) (s : State) : State := { s with expander := e }

def Expander.isIdle : Expander → Bool
  | .idle => true
  | _ => false

def setTap (k : Quad) (v : BitVec 5) (s : State) : State :=
  { s with sweep.taps := s.sweep.taps.modify k fun _ => v }

/-- RUNNING or DRAINING: the states in which work is placed and issued (R32, R95). -/
def RunState.works : RunState → Bool
  | .running => true
  | .draining => true
  | _ => false

/-- Drops the first entry equal to `x`. -/
def dropFirst {α : Type} [DecidableEq α] (x : α) : List α → List α
  | [] => []
  | y :: ys => if y = x then ys else y :: dropFirst x ys

/-- A settle period is in progress (R164). -/
def settling (s : State) : Bool := s.run.settle.isSome

end Sys2Proof.Machine
end

