-- ==== Sys2Proof/Machine/Flags.lean ====
section
/-! DEFINITION. The interrupt flags and the interrupt line (R169, R170), and the computed status values:
a completion status (R166), a starved access (R97), and the run conditions of R161 and R162. -/

namespace Sys2Proof.Machine

/-- The six interrupt flags (R169). -/
inductive Flag
  | completion | marker | halt | idleReached | failOverflow | refreshMissed
deriving DecidableEq, Repr

/-- A flag's bit at offset 0x2C0 (R186). -/
def Flag.bit : Flag → Nat
  | .completion => 0
  | .marker => 1
  | .halt => 2
  | .idleReached => 3
  | .failOverflow => 4
  | .refreshMissed => 5

/-- The word of one flag. -/
def Flag.mask (f : Flag) : BitVec 6 := BitVec.twoPow 6 f.bit

/-- A flag is set; setting a set flag leaves it set (R169). -/
def raiseFlag (f : Flag) (s : State) : State :=
  { s with run.flags := s.run.flags ||| f.mask }

/-- Write 1 to clear (R169). -/
def clearFlags (v : Word) (s : State) : State :=
  { s with run.flags := s.run.flags &&& ~~~(v.extractLsb' 0 6) }

/-- The interrupt line is active while a set flag has its enable (R170). -/
def interruptLine (s : State) : Bool := (s.run.flags &&& s.run.enables) != 0

/-- INT_N is low while the interrupt line is active (R193). -/
def intN (s : State) : Bool := !interruptLine s

/-- The status of a completion record: the first that applies (R166). -/
def Descriptor.status (d : Descriptor) : Status :=
  if d.cutShort then .cutShort
  else if d.lost ≠ 0 then .lost
  else if d.miscompares ≠ 0 then .miscompare
  else .done

/-- An access is starved while its bypass count is at least STARVE_LIMIT (R97). -/
def starved (s : State) (a : Access) : Bool :=
  decide (s.timing.working.starveLimit.toNat ≤ a.bypass)

/-- Starved accesses shown in the run status group (R99). -/
def starvedCount (s : State) : Nat := s.window.countP (starved s)

/-- The conditions under which DRAINING reaches IDLE (R161). -/
def drained (s : State) : Bool :=
  s.expander.isIdle && s.intake.queue.all (fun d => d.life == .waiting) &&
    s.window.isEmpty && s.reads.inFlight.isEmpty && s.reads.writePhases.isEmpty &&
    s.arbiter.pendingClose.isEmpty

/-- Every bank of a rank is CLOSED. -/
def rankAllClosed (s : State) (r : Rank) : Bool :=
  (rankBankRecords s r).all fun b => b.state == .closed

/-- The conditions under which ABORTING ends (R162). -/
def abortFinished (s : State) : Bool :=
  s.expander.isIdle && s.reads.inFlight.isEmpty && s.reads.writePhases.isEmpty &&
    (presentRanks s).all (rankAllClosed s)

end Sys2Proof.Machine
end

