-- ==== Sys2Proof/Machine/Operands.lean ====
section
/-! DEFINITION. The operand forms: the fields of the staging words (R188), of a written geometry word,
and of a rank mask, and the checks PUSH makes on them (R7, R9–R12). -/

namespace Sys2Proof.Machine

/-- Bits `lo + len − 1` to `lo` of a word, as a number. -/
def bits (w : Word) (lo len : Nat) : Nat := (w.extractLsb' lo len).toNat

/-- Bit `i` of a word as a yes-or-no. -/
def bit (w : Word) (i : Nat) : Bool := w.getLsbD i

def rankOfBit (b : Bool) : Rank := if b then .r1 else .r0

/-- A staging word. -/
def stagingWord (s : State) (i : Fin 8) : Word := s.host.staging[i]

/-! ## Coded fields: a code that names no value gives none (R9, R188) -/

def walkOfCode : Nat → Option Walk
  | 0 => some .rowMajor
  | 1 => some .columnMajor
  | _ => none

def closePolicyOfCode : Nat → Option ClosePolicy
  | 0 => some .keep
  | 1 => some .closeRowEnd
  | 2 => some .closeEach
  | _ => none

def formatOfCode : Nat → Option Format
  | 0 => some .uniform
  | 1 => some .held
  | 2 => some .rotated
  | 3 => some .address
  | _ => none

/-! ## The staging words' fields (R188) -/

def stagedBank (s : State) : BankAddr where
  rank := rankOfBit (bit (stagingWord s 0) 16)
  bankSet := .ofNum (bits (stagingWord s 0) 17 2)
  bank := .ofNum (bits (stagingWord s 0) 19 2)

def stagedPattern (s : State) (format : Format) : PatternFields where
  slot := ⟨bits (stagingWord s 0) 8 3, (BitVec.extractLsb' 8 3 (stagingWord s 0)).isLt⟩
  format := format
  invert := bit (stagingWord s 0) 15

def stagedRegion (s : State) (kind : RegionKind) : Option Region := do
  let walk ← walkOfCode (bits (stagingWord s 0) 4 2)
  let close ← closePolicyOfCode (bits (stagingWord s 0) 6 2)
  let format ← formatOfCode (bits (stagingWord s 0) 12 3)
  some
    { kind := kind
      fence := bit (stagingWord s 0) 3
      bank := stagedBank s
      rowFirst := bits (stagingWord s 1) 0 17
      rowCount := bits (stagingWord s 2) 0 18
      colFirst := bits (stagingWord s 3) 0 7
      colCount := bits (stagingWord s 3) 8 8
      walk := walk
      pattern := stagedPattern s format
      close := close }

def stagedPause (s : State) : Work :=
  .pause ((stagingWord s 4).extractLsb' 0 16) ⟨bit (stagingWord s 4) 16, bit (stagingWord s 4) 17⟩

/-- The sweep byte lane, tap_first and tap_last are checked before they are narrowed (R12). -/
def stagedSweep (s : State) : Option SweepFields := do
  let format ← formatOfCode (bits (stagingWord s 0) 12 3)
  some
    { addr := ⟨stagedBank s, bits (stagingWord s 1) 0 17, bits (stagingWord s 3) 0 7⟩
      pattern := stagedPattern s format
      lane := .ofNum (bits (stagingWord s 6) 0 3)
      tapFirst := .ofNat 5 (bits (stagingWord s 6) 8 6)
      tapLast := .ofNat 5 (bits (stagingWord s 6) 16 6)
      readsPerTap := bits (stagingWord s 7) 0 8
      applyWindow := bit (stagingWord s 7) 8 }

/-- The staged descriptor's kind with its fields, or none where the decoding check fails (R9). -/
def stagedWork (s : State) : Option Work :=
  match bits (stagingWord s 0) 0 3 with
  | 1 => (stagedRegion s .write).map .region
  | 2 => (stagedRegion s .read).map .region
  | 3 => (stagedRegion s .checkWrite).map .region
  | 4 => some (stagedPause s)
  | 5 => some (.marker ((stagingWord s 5).extractLsb' 0 8))
  | 6 => (stagedSweep s).map .sweep
  | _ => none

/-! ## The checks of PUSH after decoding -/

/-- A PAUSE has a pause length of at least 1 (R10). -/
def pauseFits : Work → Bool
  | .pause length _ => length != 0
  | _ => true

/-- The address check against the geometry in force (R11). -/
def addressFits (g : Geometry) : Work → Bool
  | .region r =>
    g.present r.bank.rank && decide (1 ≤ r.rowCount) && decide (r.rowCount ≤ 65536) &&
      decide (1 ≤ r.colCount) && decide (r.rowFirst + r.rowCount ≤ g.rows) &&
      decide (r.colFirst + r.colCount ≤ g.bursts)
  | .sweep f => g.present f.addr.bank.rank && decide (f.addr.row < g.rows) && decide (f.addr.col < g.bursts)
  | .pause _ _ => true
  | .marker _ => true

/-- The sweep check, on the staged fields at full width (R12). -/
def sweepFits (s : State) : Work → Bool
  | .sweep _ =>
    decide (bits (stagingWord s 6) 0 3 ≤ 3) && decide (bits (stagingWord s 6) 16 6 ≤ 31) &&
      decide (bits (stagingWord s 6) 8 6 ≤ bits (stagingWord s 6) 16 6) &&
      decide (1 ≤ bits (stagingWord s 7) 0 8)
  | _ => true

/-- Accesses total, fixed when the PUSH is accepted (R13). -/
def Work.total : Work → Nat
  | .region r =>
    match r.kind with
    | .write => r.rowCount * r.colCount
    | .read => r.rowCount * r.colCount
    | .checkWrite => 2 * r.rowCount * r.colCount
  | .sweep f => (f.tapLast.toNat + 1 - f.tapFirst.toNat) * f.readsPerTap
  | .pause _ _ => 0
  | .marker _ => 0

/-- Fenced: a region by its fence field, every PAUSE and SWEEP, no MARKER (01, 1.1). -/
def Work.fenced : Work → Bool
  | .region r => r.fence
  | .pause _ _ => true
  | .marker _ => false
  | .sweep _ => true

def Work.isSweep : Work → Bool
  | .sweep _ => true
  | _ => false

def Work.isMarker : Work → Bool
  | .marker _ => true
  | _ => false

def Work.kind : Work → Kind
  | .region r =>
    match r.kind with
    | .write => .write
    | .read => .read
    | .checkWrite => .checkWrite
  | .pause _ _ => .pause
  | .marker _ => .marker
  | .sweep _ => .sweep

/-! ## The staging words that spell a work (R188) -/

def Walk.code : Walk → Nat
  | .rowMajor => 0
  | .columnMajor => 1

def ClosePolicy.code : ClosePolicy → Nat
  | .keep => 0
  | .closeRowEnd => 1
  | .closeEach => 2

def Format.code : Format → Nat
  | .uniform => 0
  | .held => 1
  | .rotated => 2
  | .address => 3

def RegionKind.code : RegionKind → Nat
  | .write => 1
  | .read => 2
  | .checkWrite => 3

/-- The pattern and bank fields of staging word 0. -/
def addressedBits (p : PatternFields) (b : BankAddr) : Nat :=
  2 ^ 8 * p.slot.val + 2 ^ 12 * p.format.code + 2 ^ 15 * p.invert.toNat + 2 ^ 16 * b.rank.num +
    2 ^ 17 * b.bankSet.num + 2 ^ 19 * b.bank.num

/-- Staging words 0 to 7, each as a number; a word its kind does not use is 0. -/
def Work.stagingNumbers : Work → List Nat
  | .region r =>
    [r.kind.code + 2 ^ 3 * r.fence.toNat + 2 ^ 4 * r.walk.code + 2 ^ 6 * r.close.code +
       addressedBits r.pattern r.bank,
     r.rowFirst, r.rowCount, r.colFirst + 2 ^ 8 * r.colCount]
  | .pause length hold => [4, 0, 0, 0, length.toNat + 2 ^ 16 * hold.r0.toNat + 2 ^ 17 * hold.r1.toNat]
  | .marker code => [5, 0, 0, 0, 0, code.toNat]
  | .sweep f =>
    [6 + addressedBits f.pattern f.addr.bank, f.addr.row, 0, f.addr.col, 0, 0,
     f.lane.num + 2 ^ 8 * f.tapFirst.toNat + 2 ^ 16 * f.tapLast.toNat,
     f.readsPerTap + 2 ^ 8 * f.applyWindow.toNat]

/-- The staging words that spell a work. -/
def Work.stagingWords (w : Work) : Vector Word 8 :=
  .ofFn fun i => BitVec.ofNat 32 (w.stagingNumbers.getD i.val 0)

/-- The work's numbers fit the widths of their staging fields (R188). -/
def Work.spellable : Work → Bool
  | .region r =>
    decide (r.rowFirst < 2 ^ 17) && decide (r.rowCount < 2 ^ 18) && decide (r.colFirst < 2 ^ 7) &&
      decide (r.colCount < 2 ^ 8)
  | .sweep f => decide (f.addr.row < 2 ^ 17) && decide (f.addr.col < 2 ^ 7) && decide (f.readsPerTap < 2 ^ 8)
  | .pause _ _ => true
  | .marker _ => true

/-! ## Other operand words -/

/-- The fields of a written geometry word (R186). -/
def geometryOfWord (v : Word) : Geometry where
  ranksPresent := v.extractLsb' 0 2
  rowsCode := v.extractLsb' 8 5
  burstsPerRow := v.extractLsb' 16 8

/-- The rank's bit of a rank mask (R185). -/
def maskNames (mask : BitVec 2) (r : Rank) : Bool := mask.getLsbD r.num

end Sys2Proof.Machine
end

