-- ==== Sys2Proof/Machine/Timing.lean ====
section
/-! DEFINITION. The timing set: reading and writing a parameter, the ranges and constraints of R65, and
the validation of START and REFRESH_ENABLE (R68, R69). -/

namespace Sys2Proof.Machine

/-- The value of a parameter in a timing set. -/
def TimingSet.get (t : TimingSet) : TimingParam → BitVec 16
  | .openToAccess => t.openToAccess
  | .openToClose => t.openToClose
  | .closeTime => t.closeTime
  | .openGapSameSet => t.openGapSameSet
  | .openGapOtherSet => t.openGapOtherSet
  | .fourOpenWindow => t.fourOpenWindow
  | .accessGapSameSet => t.accessGapSameSet
  | .accessGapOtherSet => t.accessGapOtherSet
  | .writeToReadSameSet => t.writeToReadSameSet
  | .writeToReadOtherSet => t.writeToReadOtherSet
  | .readToWrite => t.readToWrite
  | .rankSwitchGap => t.rankSwitchGap
  | .readLatency => t.readLatency
  | .writeLatency => t.writeLatency
  | .writeRecovery => t.writeRecovery
  | .readTimeout => t.readTimeout
  | .refreshInterval => t.refreshInterval
  | .refreshTime => t.refreshTime
  | .pageHold => t.pageHold
  | .starveLimit => t.starveLimit

/-- A timing set with one parameter replaced. -/
def TimingSet.put (t : TimingSet) (p : TimingParam) (v : BitVec 16) : TimingSet :=
  match p with
  | .openToAccess => { t with openToAccess := v }
  | .openToClose => { t with openToClose := v }
  | .closeTime => { t with closeTime := v }
  | .openGapSameSet => { t with openGapSameSet := v }
  | .openGapOtherSet => { t with openGapOtherSet := v }
  | .fourOpenWindow => { t with fourOpenWindow := v }
  | .accessGapSameSet => { t with accessGapSameSet := v }
  | .accessGapOtherSet => { t with accessGapOtherSet := v }
  | .writeToReadSameSet => { t with writeToReadSameSet := v }
  | .writeToReadOtherSet => { t with writeToReadOtherSet := v }
  | .readToWrite => { t with readToWrite := v }
  | .rankSwitchGap => { t with rankSwitchGap := v }
  | .readLatency => { t with readLatency := v }
  | .writeLatency => { t with writeLatency := v }
  | .writeRecovery => { t with writeRecovery := v }
  | .readTimeout => { t with readTimeout := v }
  | .refreshInterval => { t with refreshInterval := v }
  | .refreshTime => { t with refreshTime := v }
  | .pageHold => { t with pageHold := v }
  | .starveLimit => { t with starveLimit := v }

/-- A parameter of the working set, in tclk (R66). -/
def tclk (s : State) (p : TimingParam) : Nat := (s.timing.working.get p).toNat

/-- The lowest and highest value of a parameter (R65). -/
def paramRange : TimingParam → Nat × Nat
  | .openToAccess => (4, 63)
  | .openToClose => (8, 127)
  | .closeTime => (4, 63)
  | .openGapSameSet => (2, 31)
  | .openGapOtherSet => (2, 31)
  | .fourOpenWindow => (8, 255)
  | .accessGapSameSet => (4, 15)
  | .accessGapOtherSet => (4, 15)
  | .writeToReadSameSet => (2, 31)
  | .writeToReadOtherSet => (2, 31)
  | .readToWrite => (2, 31)
  | .rankSwitchGap => (1, 15)
  | .readLatency => (8, 63)
  | .writeLatency => (8, 63)
  | .writeRecovery => (4, 63)
  | .readTimeout => (16, 1023)
  | .refreshInterval => (256, 65535)
  | .refreshTime => (32, 1023)
  | .pageHold => (0, 4095)
  | .starveLimit => (1, 63)

def inRange (t : TimingSet) (p : TimingParam) : Bool :=
  decide ((paramRange p).1 ≤ (t.get p).toNat) && decide ((t.get p).toNat ≤ (paramRange p).2)

/-- The constraint of a parameter against one of lower index (R65). -/
def meetsConstraint (t : TimingSet) : TimingParam → Bool
  | .openGapOtherSet => decide (t.openGapOtherSet.toNat ≤ t.openGapSameSet.toNat)
  | .fourOpenWindow => decide (t.openGapSameSet.toNat ≤ t.fourOpenWindow.toNat)
  | .accessGapOtherSet => decide (t.accessGapOtherSet.toNat ≤ t.accessGapSameSet.toNat)
  | .writeToReadOtherSet => decide (t.writeToReadOtherSet.toNat ≤ t.writeToReadSameSet.toNat)
  | .readTimeout => decide (t.readLatency.toNat + 8 ≤ t.readTimeout.toNat)
  | _ => true

/-- The first parameter, in index order, out of its range or breaking its constraint (R68). -/
def firstBadParam (t : TimingSet) : Option Nat :=
  (TimingParam.all.find? fun p => !(inRange t p && meetsConstraint t p)).map TimingParam.index

/-- The first geometry item that fails: 21 ranks present, 22 the rows code, 23 bursts per row (R68). -/
def firstBadGeometry (g : Geometry) : Option Nat :=
  if ¬(g.ranksPresent = 1 ∨ g.ranksPresent = 2) then some 21
  else if ¬(12 ≤ g.rowsCode.toNat ∧ g.rowsCode.toNat ≤ 17) then some 22
  else if ¬(g.bursts = 16 ∨ g.bursts = 32 ∨ g.bursts = 64 ∨ g.bursts = 128) then some 23
  else none

/-- The index START reports, or none when every item passes (R68). -/
def startFault (s : State) : Option Nat :=
  match firstBadParam s.timing.stored with
  | some i => some i
  | none => firstBadGeometry s.timing.geometry

/-- The index REFRESH_ENABLE reports, or none when the pair passes (R69). -/
def refreshPairFault (s : State) : Option Nat :=
  if !inRange s.timing.stored .refreshInterval then some 17
  else if !inRange s.timing.stored .refreshTime then some 18
  else none

/-- The low 16 bits of the written word become the stored value (R67). -/
def writeTiming (p : TimingParam) (v : Word) (s : State) : State :=
  { s with timing.stored := s.timing.stored.put p (v.extractLsb' 0 16) }

/-- TIMING_SET_WRITE: taken in IDLE, a bad access otherwise (R67, R183). -/
def timingSetWrite (p : TimingParam) (be : BitVec 4) (v : Word) (s : State) : State :=
  ifFull be (ifIdle (writeTiming p v)) s

/-- TIMING_SET_WRITE (R67). -/
def execTimingSetWrite (p : TimingParam) (be : BitVec 4) (value : Word) (s : State) :
    Host.Outcome State Fault Refusal :=
  .next (timingSetWrite p be value s)

end Sys2Proof.Machine
end

