-- ==== Sys2Proof/Machine/BankTable.lean ====
section
/-! DEFINITION. The bank table: what it allows (R46, R56), the transitions of a bank and a rank record
(R47–R63), and the expiry of the table's timers. -/

namespace Sys2Proof.Machine

/-! ## The effect of each array command on a bank record -/

/-- OPEN issued to a CLOSED bank (R47). -/
def BankRecord.openRow (b : BankRecord) (row toAccess toClose : Nat) : BankRecord :=
  { b with
    state := .opening row
    accessReady := .running toAccess
    restore := .running toClose
    idle := 0
    closePending := false }

/-- READ issued to an OPEN bank (R49); close-after sets close pending (R52). -/
def BankRecord.readIssued (b : BankRecord) (closeAfter : Bool) : BankRecord :=
  { b with
    readCloseWait := .running Config.dataPhase
    idle := 0
    closePending := b.closePending || closeAfter }

/-- WRITE issued to an OPEN bank (R50); close-after sets close pending (R52). -/
def BankRecord.writeIssued (b : BankRecord) (closeAfter : Bool) : BankRecord :=
  { b with
    writePhases := b.writePhases + 1
    idle := 0
    closePending := b.closePending || closeAfter }

/-- A write data phase of the bank ends (R50). -/
def BankRecord.writePhaseEnded (b : BankRecord) (recovery : Nat) : BankRecord :=
  { b with writePhases := b.writePhases - 1, writeRecovery := .running recovery }

/-- CLOSE issued to an OPEN bank (R54). -/
def BankRecord.close (b : BankRecord) (closeTime : Nat) : BankRecord :=
  { b with
    state := .closing
    closeTime := .running closeTime
    closePending := false
    idle := 0 }

/-- CLOSE_RANK issued to the bank's rank: a CLOSED bank stays CLOSED (R57). -/
def BankRecord.closeWithRank (b : BankRecord) (closeTime : Nat) : BankRecord :=
  match b.state with
  | .closed => { b with closePending := false, idle := 0 }
  | _ => b.close closeTime

/-- The target alert, and a change of ranks present for rank 1 (R59, R63). -/
def BankRecord.alert (b : BankRecord) : BankRecord :=
  { b with
    state := .unknown
    accessReady := .stopped
    closeTime := .stopped
    closePending := false
    idle := 0 }

/-! ## Timer expiries of a bank record -/

/-- The access-ready timer expires: in OPENING the bank becomes OPEN (R48). -/
def BankRecord.expireAccessReady (b : BankRecord) : BankRecord :=
  if b.accessReady.isDue then
    { b with
      accessReady := .stopped
      state := match b.state with
        | .opening row => .opened row
        | st => st }
  else b

/-- The close time expires: in CLOSING the bank becomes CLOSED (R55). -/
def BankRecord.expireCloseTime (b : BankRecord) : BankRecord :=
  if b.closeTime.isDue then
    { b with
      closeTime := .stopped
      state := match b.state with
        | .closing => .closed
        | st => st }
  else b

/-- The restore timer expires (R51). -/
def BankRecord.expireRestore (b : BankRecord) : BankRecord := { b with restore := b.restore.expire }

/-- The write recovery timer expires (R50). -/
def BankRecord.expireWriteRecovery (b : BankRecord) : BankRecord :=
  { b with writeRecovery := b.writeRecovery.expire }

/-- The read close wait expires (R49). -/
def BankRecord.expireReadCloseWait (b : BankRecord) : BankRecord :=
  { b with readCloseWait := b.readCloseWait.expire }

/-- Every expiry of the bank that is due. -/
def BankRecord.expireAll (b : BankRecord) : BankRecord :=
  b.expireAccessReady.expireRestore.expireWriteRecovery.expireReadCloseWait.expireCloseTime

/-- The bank is OPENING or OPEN: its idle time counts (R53). -/
def BankState.isOpenOrOpening : BankState → Bool
  | .opening _ => true
  | .opened _ => true
  | _ => false

/-- One tclk passes over the bank's timers and idle time (R43, R53). -/
def BankRecord.count (b : BankRecord) : BankRecord :=
  { b with
    accessReady := b.accessReady.count
    restore := b.restore.count
    writeRecovery := b.writeRecovery.count
    readCloseWait := b.readCloseWait.count
    closeTime := b.closeTime.count
    idle := if b.state.isOpenOrOpening then min (b.idle + 1) Config.idleCeiling else b.idle }

/-! ## Rank records -/

/-- OPEN issued to the rank: age 0 at the newest end, at most four entries (R60). -/
def RankRecord.opened (k : RankRecord) : RankRecord :=
  { k with history := (k.history ++ [0]).drop (k.history.length + 1 - Config.historyCapacity) }

/-- CLOSE_RANK issued to the rank clears recovery needed (R57, R58). -/
def RankRecord.closed (k : RankRecord) : RankRecord := { k with recoveryNeeded := false }

/-- REFRESH issued to the rank (R61, R105). -/
def RankRecord.refreshed (k : RankRecord) (refreshTime : Nat) : RankRecord :=
  { k with state := .refreshing, refreshTime := .running refreshTime, debt := k.debt - 1 }

/-- The refresh time expires: the rank becomes READY (R61). -/
def RankRecord.expireRefreshTime (k : RankRecord) : RankRecord :=
  if k.refreshTime.isDue then { k with refreshTime := .stopped, state := .ready } else k

def RankRecord.needRecovery (k : RankRecord) : RankRecord := { k with recoveryNeeded := true }

/-- One tclk of an interval timer: only RUNNING counts (R100). -/
def IntervalTimer.count : IntervalTimer → IntervalTimer
  | .running (n + 1) => .running n
  | t => t

/-- One tclk passes over the rank's ages, refresh time and interval timer (R44, R60). -/
def RankRecord.count (k : RankRecord) : RankRecord :=
  { k with
    history := k.history.map fun age => min (age + 1) Config.ageCeiling
    refreshTime := k.refreshTime.count
    interval := k.interval.count }

/-! ## What the table allows (R46, R56) -/

/-- Timers and write phases allow the bank to be closed (R46, R56). -/
def BankRecord.closeReady (b : BankRecord) : Bool :=
  !b.restore.isRunning && b.writePhases == 0 && !b.writeRecovery.isRunning && !b.readCloseWait.isRunning

def BankState.isOpened : BankState → Bool
  | .opened _ => true
  | _ => false

def BankState.isOpening : BankState → Bool
  | .opening _ => true
  | _ => false

def tableAllowsOpen (s : State) (b : BankAddr) : Bool :=
  (bankAt s b).state == .closed && (rankAt s b.rank).state == .ready && !(rankAt s b.rank).recoveryNeeded

/-- A READ or WRITE for an access to row `row` of bank `b`. -/
def tableAllowsAccess (s : State) (b : BankAddr) (row : Nat) : Bool :=
  (bankAt s b).state == .opened row && !(bankAt s b).closePending

def tableAllowsClose (s : State) (b : BankAddr) : Bool :=
  (bankAt s b).state.isOpened && (bankAt s b).closeReady

/-- CLOSE_RANK (R56). -/
def tableAllowsCloseRank (s : State) (r : Rank) : Bool :=
  (rankAt s r).state == .ready &&
    (rankBankRecords s r).all (fun b => !b.state.isOpening) &&
    (rankBankRecords s r).all (fun b => !(b.state.isOpened || b.state == .unknown) || b.closeReady) &&
    (rankBankRecords s r).any (fun b => b.state != .closed)

/-- REFRESH: every bank CLOSED and the rank READY (R46, R61). -/
def tableAllowsRefresh (s : State) (r : Rank) : Bool :=
  (rankBankRecords s r).all (fun b => b.state == .closed) && (rankAt s r).state == .ready

/-! ## Alert and reset over the whole table -/

/-- One rank's banks become UNKNOWN and leave the pending close order (R59, R63, R91). -/
def loseRank (r : Rank) (s : State) : State :=
  let s := modifyRank r RankRecord.needRecovery (modifyRankBanks r BankRecord.alert s)
  { s with arbiter.pendingClose := s.arbiter.pendingClose.filter fun b => b.rank != r }

/-- The target alert's effect on every present rank (R59). -/
def loseBanks (s : State) : State := (presentRanks s).foldl (fun s r => loseRank r s) s

/-- The longest remaining restore, write recovery, close or refresh time in the table (R164). -/
def longestTableTimer (s : State) : Nat :=
  (bothRanks.flatMap (rankBankRecords s)).foldl
    (fun m b => max m (max b.restore.remaining (max b.writeRecovery.remaining b.closeTime.remaining)))
    (max s.ranks.r0.refreshTime.remaining s.ranks.r1.refreshTime.remaining)

/-! ## The expiry commands -/

/-- ACCESS_READY_EXPIRY (R48). -/
def execAccessReadyExpiry (bank : BankAddr) (s : State) : Host.Outcome State Fault Refusal :=
  .next (modifyBank bank BankRecord.expireAccessReady s)

/-- RESTORE_EXPIRY (R51). -/
def execRestoreExpiry (bank : BankAddr) (s : State) : Host.Outcome State Fault Refusal :=
  .next (modifyBank bank BankRecord.expireRestore s)

/-- WRITE_RECOVERY_EXPIRY (R50). -/
def execWriteRecoveryExpiry (bank : BankAddr) (s : State) : Host.Outcome State Fault Refusal :=
  .next (modifyBank bank BankRecord.expireWriteRecovery s)

/-- READ_CLOSE_WAIT_EXPIRY (R49). -/
def execReadCloseWaitExpiry (bank : BankAddr) (s : State) : Host.Outcome State Fault Refusal :=
  .next (modifyBank bank BankRecord.expireReadCloseWait s)

/-- CLOSE_TIME_EXPIRY (R55). -/
def execCloseTimeExpiry (bank : BankAddr) (s : State) : Host.Outcome State Fault Refusal :=
  .next (modifyBank bank BankRecord.expireCloseTime s)

/-- REFRESH_TIME_EXPIRY (R61). -/
def execRefreshTimeExpiry (rank : Rank) (s : State) : Host.Outcome State Fault Refusal :=
  .next (modifyRank rank RankRecord.expireRefreshTime s)

end Sys2Proof.Machine
end

