-- ==== Sys2Proof/Machine/Spacing.lean ====
section
/-! DEFINITION. The spacing monitor: what it allows (R72–R79), the holds each issue starts (R71), and the
expiry of a hold. -/

namespace Sys2Proof.Machine

/-- One array command as it may be issued (03, 05; R190). -/
inductive ArrayCommand
  | openRow (bank : BankAddr) (row : Nat)
  | close (bank : BankAddr)
  | closeRank (rank : Rank)
  | read (access : Access)
  | write (access : Access)
  | refresh (rank : Rank)
deriving DecidableEq, Repr

/-! ## OPENs (R73, R74) -/

/-- The newest OPEN of the rank is at least OPEN_GAP_OTHER_SET old, or there is none (R73). -/
def openGapKept (s : State) (r : Rank) : Bool :=
  match (rankAt s r).history.getLast? with
  | some age => decide (tclk s .openGapOtherSet ≤ age)
  | none => true

/-- Fewer than 4 OPENs are remembered, or the oldest is at least FOUR_OPEN_WINDOW old (R74). -/
def openWindowKept (s : State) (r : Rank) : Bool :=
  match (rankAt s r).history with
  | [] => true
  | oldest :: rest =>
    decide (rest.length + 1 < Config.historyCapacity) || decide (tclk s .fourOpenWindow ≤ oldest)

def spacingAllowsOpen (s : State) (b : BankAddr) : Bool :=
  holdExpired s (.setOpen b.rank b.bankSet) && openGapKept s b.rank && openWindowKept s b.rank

/-! ## READs and WRITEs (R75–R79) -/

/-- The access gaps and the rank switch gap (R75, R76). -/
def accessGapsKept (s : State) (b : BankAddr) : Bool :=
  holdExpired s (.setAccess b.rank b.bankSet) && holdExpired s (.rankAccess b.rank) &&
    holdExpired s (.rankSwitch b.rank)

/-- The data phase of a command with this latency starts after every phase reserved so far (R79). -/
def lanesFree (s : State) (latency : Nat) : Bool :=
  decide ((s.holds.get .dataLane).remaining ≤ latency)

/-- A READ (R75, R76, R77, R79, R126). -/
def spacingAllowsRead (s : State) (b : BankAddr) : Bool :=
  accessGapsKept s b && holdExpired s (.setWriteToRead b.rank b.bankSet) &&
    holdExpired s (.rankWriteToRead b.rank) && lanesFree s (tclk s .readLatency) &&
    decide (s.reads.inFlight.length < Config.inFlightCapacity)

/-- A WRITE (R75, R76, R78, R79). -/
def spacingAllowsWrite (s : State) (b : BankAddr) : Bool :=
  accessGapsKept s b && holdExpired s (.readToWrite b.rank) && lanesFree s (tclk s .writeLatency)

/-! ## The holds an issue starts (R71) -/

def startOpenHolds (b : BankAddr) (s : State) : State :=
  startHold (.setOpen b.rank b.bankSet) (tclk s .openGapSameSet) s

/-- The holds every READ and WRITE starts, its own latency given (R75, R76, R79). -/
def startAccessHolds (b : BankAddr) (latency : Nat) (s : State) : State :=
  startHold .dataLane (latency + Config.dataPhase)
    (startHold (.rankSwitch (otherRank b.rank)) (tclk s .rankSwitchGap)
      (startHold (.rankAccess b.rank) (tclk s .accessGapOtherSet)
        (startHold (.setAccess b.rank b.bankSet) (tclk s .accessGapSameSet) s)))

/-- A READ's holds (R78). -/
def startReadHolds (b : BankAddr) (s : State) : State :=
  startHold (.readToWrite b.rank) (tclk s .readToWrite) (startAccessHolds b (tclk s .readLatency) s)

/-- A WRITE's holds (R77). -/
def startWriteHolds (b : BankAddr) (s : State) : State :=
  startHold (.rankWriteToRead b.rank)
    (tclk s .writeLatency + Config.dataPhase + tclk s .writeToReadOtherSet)
    (startHold (.setWriteToRead b.rank b.bankSet)
      (tclk s .writeLatency + Config.dataPhase + tclk s .writeToReadSameSet)
      (startAccessHolds b (tclk s .writeLatency) s))

/-- The expiry of one hold: a hold whose count has run out is no longer running (R71, log 21). -/
def expireHold (i : HoldId) (s : State) : State :=
  { s with holds := s.holds.modify i Timer.expire }

/-- HOLD_EXPIRY (R71). -/
def execHoldExpiry (hold : HoldId) (s : State) : Host.Outcome State Fault Refusal :=
  .next (expireHold hold s)

end Sys2Proof.Machine
end

