-- ==== Sys2Proof/Machine/Arbiter.lean ====
section
/-! DEFINITION. The issue arbiter: candidates (R84, R85), eligibility (R83), the priority ladder
(R86–R95), bypass counting (R96), and the issue of a command with every effect of it (R82, R190). -/

namespace Sys2Proof.Machine

/-! ## Candidates from the issue window (R84, R85) -/

/-- The accesses of a window that are the first for their bank, `seen` holding the banks met so far. -/
def headsFrom (seen : List BankAddr) : List Access → List Access
  | [] => []
  | a :: rest =>
    if a.addr.bank ∈ seen then headsFrom seen rest
    else a :: headsFrom (a.addr.bank :: seen) rest

/-- The head accesses, in window order (R84). -/
def headAccesses (s : State) : List Access := headsFrom [] s.window

/-- The access itself, as a READ or WRITE. -/
def Access.command (a : Access) : ArrayCommand :=
  match a.op with
  | .read => .read a
  | .write => .write a

/-- The command a head access needs next (R85). -/
def nextCommand (s : State) (a : Access) : Option ArrayCommand :=
  match (bankAt s a.addr.bank).state with
  | .closed => some (.openRow a.addr.bank a.addr.row)
  | .opened row =>
    if (bankAt s a.addr.bank).closePending then some (.close a.addr.bank)
    else if row = a.addr.row then some a.command
    else some (.close a.addr.bank)
  | .opening _ => none
  | .closing => none
  | .unknown => none

/-! ## Eligibility (R83, R89) -/

/-- The bank table and the spacing monitor allow the command as they stand (R83). -/
def eligible (s : State) : ArrayCommand → Bool
  | .openRow b _ => tableAllowsOpen s b && spacingAllowsOpen s b
  | .close b => tableAllowsClose s b
  | .closeRank r => tableAllowsCloseRank s r
  | .read a => tableAllowsAccess s a.addr.bank a.addr.row && spacingAllowsRead s a.addr.bank
  | .write a => tableAllowsAccess s a.addr.bank a.addr.row && spacingAllowsWrite s a.addr.bank
  | .refresh r => tableAllowsRefresh s r

/-- The rank's refresh debt is 8 (R88). -/
def urgent (s : State) (r : Rank) : Bool := decide (Config.urgentDebt ≤ (rankAt s r).debt)

/-- An OPEN on an urgent rank is withheld, at every rung (R89). -/
def withheld (s : State) : ArrayCommand → Bool
  | .openRow b _ => urgent s b.rank
  | _ => false

/-! ## The rungs (R86–R95) -/

/-- The window holds an access that addresses the rank. -/
def rankHasWork (s : State) (r : Rank) : Bool := s.window.any fun a => a.addr.bank.rank == r

/-- The window holds an access that addresses the bank. -/
def bankHasWork (s : State) (b : BankAddr) : Bool := s.window.any fun a => a.addr.bank == b

/-- Some bank of the rank is OPEN, OPENING or UNKNOWN (R87). -/
def needsClosing (s : State) (r : Rank) : Bool :=
  (rankBankRecords s r).any fun b => b.state.isOpenOrOpening || b.state == .unknown

/-- A present rank is offered at rung 1 (R87). -/
def offeredForClosing (s : State) (r : Rank) : Bool :=
  match s.run.state with
  | .running => (rankAt s r).recoveryNeeded && (rankHasWork s r || decide (1 ≤ (rankAt s r).debt))
  | .draining => (rankAt s r).recoveryNeeded && (rankHasWork s r || decide (1 ≤ (rankAt s r).debt))
  | .idle => (rankAt s r).recoveryNeeded && decide (1 ≤ (rankAt s r).debt)
  | .halted => (rankAt s r).recoveryNeeded && decide (1 ≤ (rankAt s r).debt)
  | .aborting => needsClosing s r

/-- Rung 1: rank closing. -/
def rung1 (s : State) : List ArrayCommand :=
  ((presentRanks s).filter (offeredForClosing s)).map .closeRank

/-- The command that refresh work offers for a rank (R88): none with a bank UNKNOWN. -/
def refreshWork (s : State) (r : Rank) : Option ArrayCommand :=
  if (rankBankRecords s r).any (fun b => b.state == .unknown) then none
  else if (rankBankRecords s r).any (fun b => b.state.isOpenOrOpening) then some (.closeRank r)
  else if rankAllClosed s r then some (.refresh r)
  else none

/-- Rung 2: urgent refresh. -/
def rung2 (s : State) : List ArrayCommand :=
  ((presentRanks s).filter (urgent s)).filterMap (refreshWork s)

/-- Rung 3: the next commands of starved head accesses (R94). -/
def rung3 (s : State) : List ArrayCommand :=
  ((headAccesses s).filter (starved s)).filterMap (nextCommand s)

/-- Rung 4: pending closes (R91). -/
def rung4 (s : State) : List ArrayCommand := s.arbiter.pendingClose.map .close

def ArrayCommand.isAccess : ArrayCommand → Bool
  | .read _ => true
  | .write _ => true
  | _ => false

def ArrayCommand.isOpen : ArrayCommand → Bool
  | .openRow _ _ => true
  | _ => false

/-- The command is a CLOSE of a bank whose close pending is no (R85). -/
def isConflictClose (s : State) : ArrayCommand → Bool
  | .close b => !(bankAt s b).closePending
  | _ => false

/-- The next commands of the head accesses that are not starved, in window order (R92). -/
def headCommands (s : State) : List ArrayCommand :=
  ((headAccesses s).filter fun a => !starved s a).filterMap (nextCommand s)

/-- Rungs 5, 6 and 7: row hits, opens, conflict closes (R92). -/
def rung5 (s : State) : List ArrayCommand := (headCommands s).filter ArrayCommand.isAccess
def rung6 (s : State) : List ArrayCommand := (headCommands s).filter ArrayCommand.isOpen
def rung7 (s : State) : List ArrayCommand := (headCommands s).filter (isConflictClose s)

/-- Rung 8: routine refresh (R90). -/
def rung8 (s : State) : List ArrayCommand :=
  ((presentRanks s).filter fun r =>
    decide (1 ≤ (rankAt s r).debt) && !urgent s r && !rankHasWork s r).filterMap (refreshWork s)

/-- The bank is offered an idle close (R93). -/
def offeredIdleClose (s : State) (b : BankAddr) : Bool :=
  isPresent s b.rank && (bankAt s b).state.isOpened && !(bankAt s b).closePending &&
    decide (tclk s .pageHold ≠ 0) && decide (tclk s .pageHold ≤ (bankAt s b).idle) &&
    !bankHasWork s b

/-- A bank put before the first of a list that has not been idle longer. -/
def insertByIdle (s : State) (b : BankAddr) : List BankAddr → List BankAddr
  | [] => [b]
  | c :: rest => if (bankAt s c).idle ≤ (bankAt s b).idle then b :: c :: rest else c :: insertByIdle s b rest

/-- Rung 9: idle closes, longest idle time first, then lowest bank (R93). -/
def rung9 (s : State) : List ArrayCommand :=
  ((allBanks.filter (offeredIdleClose s)).foldr (insertByIdle s) []).map .close

/-- A rung of the ladder, by number. -/
def rung (s : State) : Nat → List ArrayCommand
  | 1 => rung1 s
  | 2 => rung2 s
  | 3 => rung3 s
  | 4 => rung4 s
  | 5 => rung5 s
  | 6 => rung6 s
  | 7 => rung7 s
  | 8 => rung8 s
  | 9 => rung9 s
  | _ => []

/-- The rungs that apply in a run state, in order (R95). -/
def rungsFor (st : RunState) : List Nat := if st.works then [1, 2, 3, 4, 5, 6, 7, 8, 9] else [1, 2, 8]

/-- The candidates in ladder order, each with its rung (R86). -/
def ladder (s : State) : List (Nat × ArrayCommand) :=
  (rungsFor s.run.state).flatMap fun n => (rung s n).map fun c => (n, c)

/-- The candidate may be issued: eligible and not withheld (R86, R89). -/
def issuable (s : State) (c : ArrayCommand) : Bool := eligible s c && !withheld s c

/-- The first issuable candidate of the ladder with its rung; none in a settle period (R82, R86). -/
def choose (s : State) : Option (Nat × ArrayCommand) :=
  if settling s then none else (ladder s).find? fun p => issuable s p.2

/-! ## Bypass counting (R96) -/

/-- A head access is passed over by an access of its rank: its next command was eligible, or was an OPEN
that the bank table and the spacing monitor allow and urgent refresh withholds (R96, R89). That an OPEN
on an urgent rank is not counted while a hold or gap blocks it too is the model's reading (log 22). -/
def passedOver (s : State) (issued a : Access) : Bool :=
  a.addr.bank.rank == issued.addr.bank.rank &&
    match nextCommand s a with
    | some c => eligible s c
    | none => false

/-- An access passed over once more, stopping at 63. -/
def Access.bypassed (a : Access) : Access := { a with bypass := min (a.bypass + 1) Config.bypassCeiling }

/-- The window without the issued access; the heads ahead of it that `counts` holds of are counted. -/
def takeFromWindow (counts : Access → Bool) (issued : Access) (seen : List BankAddr) :
    List Access → List Access
  | [] => []
  | a :: rest =>
    if a = issued then rest
    else
      (if a.addr.bank ∉ seen ∧ counts a then a.bypassed else a) ::
        takeFromWindow counts issued (a.addr.bank :: seen) rest

/-- The issued access leaves the window, and the bypass counts rise (R40, R96). -/
def leaveWindow (a : Access) (s : State) : State :=
  { s with window := takeFromWindow (passedOver s a) a [] s.window }

/-! ## The issue of a command (R82) -/

/-- OPEN (R47, R60, R71, R73). -/
def issueOpen (b : BankAddr) (row : Nat) (s : State) : State :=
  let s := modifyBank b (fun k => k.openRow row (tclk s .openToAccess) (tclk s .openToClose)) s
  let s := startOpenHolds b (modifyRank b.rank RankRecord.opened s)
  { s with run.stats.opens := satInc s.run.stats.opens }

/-- One close is counted (R168). -/
def countClose (s : State) : State := { s with run.stats.closes := satInc s.run.stats.closes }

/-- CLOSE (R54, R91). -/
def issueClose (b : BankAddr) (s : State) : State :=
  let s := modifyBank b (fun k => k.close (tclk s .closeTime)) s
  countClose { s with arbiter.pendingClose := s.arbiter.pendingClose.filter fun c => c != b }

/-- CLOSE_RANK (R57, R91). -/
def issueCloseRank (r : Rank) (s : State) : State :=
  let s := modifyRankBanks r (fun k => k.closeWithRank (tclk s .closeTime)) s
  let s := modifyRank r RankRecord.closed s
  countClose { s with arbiter.pendingClose := s.arbiter.pendingClose.filter fun c => c.rank != r }

/-- REFRESH (R61, R105). -/
def issueRefresh (r : Rank) (s : State) : State :=
  let s := modifyRank r (fun k => k.refreshed (tclk s .refreshTime)) s
  { s with run.stats.refreshes := satInc s.run.stats.refreshes }

/-- A close-after access's bank joins the pending close order (R91). -/
def joinPendingClose (a : Access) (s : State) : State :=
  if a.closeAfter then { s with arbiter.pendingClose := s.arbiter.pendingClose ++ [a.addr.bank] } else s

/-- The owning descriptor's accesses issued rises by 1 (R18, R40). -/
def countIssued (q : Seq) (s : State) : State :=
  modifyDescriptor q (fun d => { d with issued := d.issued + 1 }) s

/-- The in-flight entry of an issued READ (R125). -/
def Access.inFlight (a : Access) (deadline : Nat) : InFlight :=
  ⟨a.seq, a.addr, a.pattern, a.sweepRead, deadline⟩

/-- The write phase list entry of an issued WRITE (R135, R81). -/
def Access.writePhase (a : Access) (remaining : Nat) : WritePhase :=
  ⟨a.seq, a.addr, a.pattern, remaining⟩

/-- READ (R40, R49, R126). -/
def issueRead (a : Access) (s : State) : State :=
  let s := joinPendingClose a (countIssued a.seq (leaveWindow a s))
  let s := modifyBank a.addr.bank (fun k => k.readIssued a.closeAfter) s
  let s := startReadHolds a.addr.bank s
  { s with
    reads.inFlight := s.reads.inFlight ++ [a.inFlight (tclk s .readTimeout)]
    run.stats.readsIssued := satInc s.run.stats.readsIssued }

/-- WRITE (R40, R50, R81, R135). -/
def issueWrite (a : Access) (s : State) : State :=
  let s := joinPendingClose a (countIssued a.seq (leaveWindow a s))
  let s := modifyBank a.addr.bank (fun k => k.writeIssued a.closeAfter) s
  let s := startWriteHolds a.addr.bank s
  { s with
    reads.writePhases := s.reads.writePhases ++ [a.writePhase (tclk s .writeLatency + Config.dataPhase)]
    run.stats.writesIssued := satInc s.run.stats.writesIssued }

/-- Every effect of a command's issue but the last rung and the command bus. -/
def issueEffects (c : ArrayCommand) (s : State) : State :=
  match c with
  | .openRow b row => issueOpen b row s
  | .close b => issueClose b s
  | .closeRank r => issueCloseRank r s
  | .read a => issueRead a s
  | .write a => issueWrite a s
  | .refresh r => issueRefresh r s

/-- The bank fields of the command bus, with an op and an address (R190). -/
def busToBank (op : BitVec 3) (b : BankAddr) (addr : Nat) : CommandBus :=
  ⟨op, .ofNat 1 b.rank.num, .ofNat 2 b.bankSet.num, .ofNat 2 b.bank.num, .ofNat 17 addr⟩

def busToRank (op : BitVec 3) (r : Rank) : CommandBus := ⟨op, .ofNat 1 r.num, 0, 0, 0⟩

/-- What the command bus carries for a command (R190). -/
def ArrayCommand.encoding : ArrayCommand → CommandBus
  | .openRow b row => busToBank 1 b row
  | .close b => busToBank 2 b 0
  | .closeRank r => busToRank 3 r
  | .read a => busToBank 4 a.addr.bank a.addr.col
  | .write a => busToBank 5 a.addr.bank a.addr.col
  | .refresh r => busToRank 6 r

def driveBus (b : CommandBus) (s : State) : State := { s with arbiter.bus := b }

/-- The rung of the last command issued (R99). -/
def recordRung (n : Nat) (s : State) : State := { s with arbiter.lastRung := n }

/-- A command chosen at a rung is issued (R82). -/
def issue (n : Nat) (c : ArrayCommand) (s : State) : State :=
  recordRung n (driveBus c.encoding (issueEffects c s))

/-- The arbiter takes one command opportunity: one command or none (R82, R190). -/
def takeOpportunity (s : State) : State :=
  match choose s with
  | some (n, c) => issue n c s
  | none => driveBus .noCommand s

/-- PAGE_HOLD_EXPIRY: the idle close is offered from the idle time itself, so the expiry changes no state
(R53, R93, log 21). -/
def pageHoldExpiry (_bank : BankAddr) (s : State) : State := s

/-- PAGE_HOLD_EXPIRY (R53). -/
def execPageHoldExpiry (bank : BankAddr) (s : State) : Host.Outcome State Fault Refusal :=
  .next (pageHoldExpiry bank s)

end Sys2Proof.Machine
end

