-- ==== Sys2Proof/Machine/FailLog.lean ====
section
/-! DEFINITION. The fail log: offers merged, appended or dropped (R141–R143), releases and clears (R145,
R147), and the record view (R148, R149). -/

namespace Sys2Proof.Machine

/-- An offer merged into a record of its key (R141). -/
def FailRecord.merge (r : FailRecord) (o : Offer) : FailRecord :=
  { r with
    laneMask := r.laneMask ||| o.laneMask
    beatMask := r.beatMask ||| o.beatMask
    lastSeq := o.seq
    hits := satInc r.hits }

/-- The record an offer creates (R142). -/
def Offer.newRecord (o : Offer) : FailRecord := ⟨o.key, o.laneMask, o.beatMask, o.seq, o.seq, 1⟩

/-- The log holds a record with the key. -/
def holdsKey (s : State) (k : Addr) : Bool := s.failLog.records.any fun r => r.key == k

def mergeOffer (o : Offer) (s : State) : State :=
  { s with failLog.records := s.failLog.records.map fun r => if r.key = o.key then r.merge o else r }

def appendOffer (o : Offer) (s : State) : State :=
  { s with failLog.records := s.failLog.records ++ [o.newRecord] }

/-- A dropped offer raises the overflow count and sets FAIL_OVERFLOW (R143). -/
def dropOffer (s : State) : State :=
  raiseFlag .failOverflow { s with failLog.overflow := satInc s.failLog.overflow }

/-- The three outcomes of an offer (R141, R142, R143). -/
def takeOffer (o : Offer) (s : State) : State :=
  if holdsKey s o.key then mergeOffer o s
  else if s.failLog.records.length < Config.failLogCapacity then appendOffer o s
  else dropOffer s

/-- FAIL_OFFER: the oldest offer on its way is taken (R144). -/
def failOffer (s : State) : State :=
  match s.messages.offers with
  | o :: rest => takeOffer o { s with messages.offers := rest }
  | [] => s

/-- FAIL_RELEASE_OLDEST taken (R145). -/
def failReleaseCommand (s : State) : State :=
  let s := takeCommand 8 0 s
  match s.failLog.records with
  | r :: rest =>
    answer .accepted (.ofNat 8 rest.length)
      { s with failLog.records := rest, failLog.view := .released r }
  | [] => answer .empty 0 s

/-- FAIL_CLEAR taken (R147). -/
def failClearCommand (s : State) : State :=
  answer .accepted 0 { takeCommand 9 0 s with failLog.records := [], failLog.overflow := 0 }

/-- The view an index write loads: a copy of that record, or empty past the end (R148). -/
def viewAt (records : List FailRecord) (i : Nat) : RecordView :=
  match records[i]? with
  | some r => .byIndex r
  | none => .empty

/-- The low 8 bits become the index, and the view is loaded (R148). -/
def writeRecordIndex (v : Word) (s : State) : State :=
  { s with
    failLog.index := v.extractLsb' 0 8
    failLog.view := viewAt s.failLog.records (v.extractLsb' 0 8).toNat }

def recordIndexWrite (be : BitVec 4) (v : Word) (s : State) : State := ifFull be (writeRecordIndex v) s

/-- The record the view holds, if any. -/
def RecordView.record? : RecordView → Option FailRecord
  | .empty => none
  | .byIndex r => some r
  | .released r => some r

/-- FAIL_OFFER (R141). -/
def execFailOffer (s : State) : Host.Outcome State Fault Refusal := .next (failOffer s)

/-- FAIL_RELEASE_OLDEST (R145). -/
def execFailReleaseOldest (s : State) : Host.Outcome State Fault Refusal := .next (failReleaseCommand s)

/-- FAIL_CLEAR (R147). -/
def execFailClear (s : State) : Host.Outcome State Fault Refusal := .next (failClearCommand s)

/-- RECORD_INDEX_WRITE (R148). -/
def execRecordIndexWrite (be : BitVec 4) (value : Word) (s : State) : Host.Outcome State Fault Refusal :=
  .next (recordIndexWrite be value s)

end Sys2Proof.Machine
end

