-- ==== Sys2Proof/Machine/Refresh.lean ====
section
/-! DEFINITION. Refresh upkeep: interval timers and debts (R100–R110), the PAUSE hold (R107), and the
commands REFRESH_ENABLE, REFRESH_DISABLE, INTERVAL_EXPIRY, HALT_ON_REFRESH_MISS_WRITE. -/

namespace Sys2Proof.Machine

/-! ## Interval timers -/

/-- The refresh hold is set: a RUNNING timer becomes HELD with its count kept (R107). A timer that has run
out in this tclk, its expiry not taken yet, is HELD with count 0; the spec has no such kept count, and that
its expiry then waits for the release is the model's choice (log 23). -/
def IntervalTimer.hold : IntervalTimer → IntervalTimer
  | .running n => .held n
  | t => t

/-- The refresh hold is released: a HELD timer runs on from its kept count (R107). -/
def IntervalTimer.release : IntervalTimer → IntervalTimer
  | .held n => .running n
  | t => t

def IntervalTimer.isDue : IntervalTimer → Bool
  | .running 0 => true
  | _ => false

/-- A rank's timer started again from a full REFRESH_INTERVAL: RUNNING, or HELD under a refresh hold;
STOPPED for a rank that is not present (R101). -/
def fullInterval (s : State) (r : Rank) : IntervalTimer :=
  if isPresent s r then
    if s.refreshHold.get r then .held (tclk s .refreshInterval) else .running (tclk s .refreshInterval)
  else .stopped

/-- A rank's timer after SOFT_RESET or a change of ranks present (R109, R110). -/
def restartedInterval (s : State) (r : Rank) : IntervalTimer :=
  if isPresent s r && s.refresh.enable.get r then .running (tclk s .refreshInterval) else .stopped

/-! ## The PAUSE hold (R33, R36, R107) -/

/-- The hold is set for a rank, and its RUNNING timer becomes HELD. -/
def holdRank (r : Rank) (s : State) : State :=
  modifyRank r (fun k => { k with interval := k.interval.hold })
    { s with refreshHold := s.refreshHold.modify r fun _ => true }

/-- The hold is released on every rank where it was set. -/
def releaseHolds (s : State) : State :=
  { s with
    ranks := .tabulate fun r =>
      if s.refreshHold.get r then
        { rankAt s r with interval := (rankAt s r).interval.release }
      else rankAt s r
    refreshHold := .all false }

/-! ## Interval expiry (R103, R104) -/

/-- The timer is started again; the debt rises by 1, or at 8 the refresh is missed. -/
def takeIntervalExpiry (r : Rank) (s : State) : State :=
  if (rankAt s r).debt < Config.urgentDebt then
    modifyRank r
      (fun k => { k with interval := .running (tclk s .refreshInterval), debt := k.debt + 1 }) s
  else
    let s₁ := modifyRank r (fun k => { k with interval := .running (tclk s .refreshInterval) }) s
    let s₂ := raiseFlag .refreshMissed { s₁ with refresh.missed := satInc s₁.refresh.missed }
    if s₂.refresh.haltOnMiss then sendHalt .refreshMissed s₂ else s₂

/-- Only a RUNNING timer that has run out expires. -/
def intervalExpiry (r : Rank) (s : State) : State :=
  if (rankAt s r).interval.isDue then takeIntervalExpiry r s else s

/-- INTERVAL_EXPIRY (R103). -/
def execIntervalExpiry (rank : Rank) (s : State) : Host.Outcome State Fault Refusal :=
  .next (intervalExpiry rank s)

/-! ## Enabling and disabling (R101, R102) -/

/-- Stored REFRESH_INTERVAL and REFRESH_TIME are copied into the working set (R66, R69). -/
def loadRefreshPair (s : State) : State :=
  { s with
    timing.working.refreshInterval := s.timing.stored.refreshInterval
    timing.working.refreshTime := s.timing.stored.refreshTime }

/-- One named rank is enabled: debt 0, timer from a full interval (R101). -/
def enableRank (r : Rank) (s : State) : State :=
  modifyRank r (fun k => { k with debt := 0, interval := fullInterval s r })
    { s with refresh.enable := s.refresh.enable.modify r fun _ => true }

/-- One named rank is disabled: debt 0, timer STOPPED (R102). -/
def disableRank (r : Rank) (s : State) : State :=
  modifyRank r (fun k => { k with debt := 0, interval := .stopped })
    { s with refresh.enable := s.refresh.enable.modify r fun _ => false }

/-- A change to each rank a mask names, rank 0 first. -/
def forNamed (mask : BitVec 2) (f : Rank → State → State) (s : State) : State :=
  bothRanks.foldl (fun s r => if maskNames mask r then f r s else s) s

/-- REFRESH_ENABLE taken (R69, R101). -/
def refreshEnableCommand (mask : BitVec 2) (s : State) : State :=
  match refreshPairFault s with
  | some i => answer .configInvalid (.ofNat 8 i) (takeCommand 10 mask s)
  | none => answer .accepted 0 (forNamed mask enableRank (loadRefreshPair (takeCommand 10 mask s)))

/-- REFRESH_DISABLE taken (R102). -/
def refreshDisableCommand (mask : BitVec 2) (s : State) : State :=
  answer .accepted 0 (forNamed mask disableRank (takeCommand 11 mask s))

/-- REFRESH_ENABLE (R101). -/
def execRefreshEnable (mask : BitVec 2) (s : State) : Host.Outcome State Fault Refusal :=
  .next (refreshEnableCommand mask s)

/-- REFRESH_DISABLE (R102). -/
def execRefreshDisable (mask : BitVec 2) (s : State) : Host.Outcome State Fault Refusal :=
  .next (refreshDisableCommand mask s)

/-! ## Halt-on-refresh-miss (R111) -/

def writeHaltOnMiss (v : Word) (s : State) : State := { s with refresh.haltOnMiss := bit v 0 }

def haltOnMissWrite (be : BitVec 4) (v : Word) (s : State) : State := ifFull be (writeHaltOnMiss v) s

/-- HALT_ON_REFRESH_MISS_WRITE (R111). -/
def execHaltOnRefreshMissWrite (be : BitVec 4) (value : Word) (s : State) :
    Host.Outcome State Fault Refusal :=
  .next (haltOnMissWrite be value s)

/-! ## Geometry writes (R14, R63, R70, R110) -/

/-- Rank 1 after a change in the number of ranks present: its banks as the alert sets them, debt 0, and
its timer restarted or STOPPED (R63, R110). -/
def rankCountChanged (s : State) : State :=
  let s := loseRank .r1 s
  modifyRank .r1 (fun k => { k with debt := 0, interval := restartedInterval s .r1 }) s

/-- A geometry write that is taken (R14). -/
def writeGeometry (v : Word) (s : State) : State :=
  let written := { s with timing.geometry := geometryOfWord v }
  if isPresent written .r1 = isPresent s .r1 then written else rankCountChanged written

/-- GEOMETRY_WRITE: taken in IDLE with an empty intake queue, a bad access otherwise (R14). -/
def geometryWrite (be : BitVec 4) (v : Word) (s : State) : State :=
  ifFull be
    (ifIdle fun s => if s.intake.queue.isEmpty then writeGeometry v s else countBadAccess s) s

/-- GEOMETRY_WRITE (R14). -/
def execGeometryWrite (be : BitVec 4) (value : Word) (s : State) : Host.Outcome State Fault Refusal :=
  .next (geometryWrite be value s)

end Sys2Proof.Machine
end

