-- ==== Sys2Proof/Machine/SweepUnit.lean ====
section
/-! DEFINITION. The alignment sweep unit's own state changes: the start of a sweep (R174), a result
(R177), the wind-down under ABORT (R181), the window search (R178), and tap writes (R172). -/

namespace Sys2Proof.Machine

/-- An entry of the sweep table (R173). -/
def sweepEntryAt (s : State) (t : BitVec 5) : SweepEntry := s.sweep.table[t.toNat]'t.isLt

def putSweepEntry (t : BitVec 5) (e : SweepEntry) (s : State) : State :=
  { s with sweep.table := s.sweep.table.set t.toNat e t.isLt }

/-- The start of a sweep: the original tap recorded, the table wiped, tap_first under test (R174). -/
def beginSweep (q : Seq) (f : SweepFields) (s : State) : State :=
  { s with
    sweep.table := .replicate 32 ⟨false, 0⟩
    expander := .sweeping .settle
      { seq := q
        fields := f
        originalTap := s.sweep.taps.get f.lane
        tapUnderTest := f.tapFirst
        readsPlaced := 0
        readsOutstanding := 0
        mismatches := 0
        stopMark := false
        abortMark := false
        endDue := false } }

/-- A result counted: one read fewer outstanding, and a fail or a loss a mismatch more (R177). -/
def Sweep.counted (w : Sweep) (failed : Bool) : Sweep :=
  { w with
    readsOutstanding := w.readsOutstanding - 1
    mismatches := if failed then w.mismatches + 1 else w.mismatches }

/-- The current tap is finished: its entry is TESTED, and the sweep goes on to the next tap or becomes
due to end (R177). -/
def finishTap (w : Sweep) (s : State) : State :=
  let s := putSweepEntry w.tapUnderTest ⟨true, .ofNat 8 w.mismatches⟩ s
  if w.tapUnderTest = w.fields.tapLast ∨ w.stopMark then
    setExpander (.sweeping .collect { w with endDue := true }) s
  else
    setExpander
      (.sweeping .settle
        { w with tapUnderTest := w.tapUnderTest + 1, readsPlaced := 0, mismatches := 0 }) s

/-- A pass, fail or loss of a sweep read of the SWEEP in hand (R177). -/
def sweepResult (q : Seq) (failed : Bool) (s : State) : State :=
  match s.expander with
  | .sweeping step w =>
    if w.seq = q then
      let w := w.counted failed
      if step = .collect ∧ w.abortMark = false ∧ w.endDue = false ∧ w.readsOutstanding = 0 then
        finishTap w s
      else setExpander (.sweeping step w) s
    else s
  | _ => s

/-- With the abort mark set and the in-flight list empty the sweep is wound down (R181). -/
def windDownSweep (s : State) : State :=
  match s.expander with
  | .sweeping _ w =>
    if w.abortMark ∧ s.reads.inFlight = [] then
      setExpander .idle (setTap w.fields.lane w.originalTap s)
    else s
  | _ => s

/-! ## The window search (R178) -/

/-- Scans taps in rising order; `width` is the width of the run that ends just before the next tap, and
`best` the first of the longest runs so far, as (first tap, width). -/
def longestRun (good : Nat → Bool) : List Nat → Nat → Option (Nat × Nat) → Option (Nat × Nat)
  | [], _, best => best
  | t :: ts, width, best =>
    if good t then
      longestRun good ts (width + 1)
        (if (best.map Prod.snd).getD 0 < width + 1 then some (t - width, width + 1) else best)
    else longestRun good ts 0 best

/-- An entry that belongs to a window: TESTED with count 0. -/
def tapIsGood (s : State) (t : Nat) : Bool :=
  let e := sweepEntryAt s (.ofNat 5 t)
  e.tested && e.count == 0

/-- The longest run of good taps from tap_first to tap_last, the lowest on a tie. -/
def sweepWindow (s : State) (f : SweepFields) : Option (Nat × Nat) :=
  longestRun (tapIsGood s)
    (List.range' f.tapFirst.toNat (f.tapLast.toNat + 1 - f.tapFirst.toNat)) 0 none

/-- The tap left in force at the end of a sweep (R178). -/
def tapLeftInForce (w : Sweep) (window : Option (Nat × Nat)) : BitVec 5 :=
  match window with
  | some (first, width) =>
    if w.fields.applyWindow ∧ w.stopMark = false then .ofNat 5 ((first + (first + width - 1)) / 2)
    else w.originalTap
  | none => w.originalTap

/-- The kind detail of the SWEEP's completion record (R178). -/
def resultOfWindow (w : Sweep) (window : Option (Nat × Nat)) : SweepResult :=
  match window with
  | some (first, width) =>
    { found := true
      first := .ofNat 5 first
      last := .ofNat 5 (first + width - 1)
      width := .ofNat 6 width
      tapLeft := tapLeftInForce w window }
  | none => ⟨false, 0, 0, 0, tapLeftInForce w window⟩

/-! ## Tap writes (R172) -/

def writeTap (k : Quad) (v : Word) (s : State) : State := setTap k (v.extractLsb' 0 5) s

/-- TAP_WRITE: taken in IDLE, a bad access otherwise (R172). -/
def tapWrite (k : Quad) (be : BitVec 4) (v : Word) (s : State) : State :=
  ifFull be (ifIdle (writeTap k v)) s

/-- TAP_WRITE (R172). -/
def execTapWrite (lane : Quad) (be : BitVec 4) (value : Word) (s : State) :
    Host.Outcome State Fault Refusal :=
  .next (tapWrite lane be value s)

/-! ## SWEEP_TAP_SET (R175) -/

/-- In SWEEP_SETTLE the tap under test is set once the in-flight list is empty, in RUNNING or DRAINING,
unless the stop mark is set (R175, R179). -/
def sweepTapSet (s : State) : State :=
  match s.expander with
  | .sweeping .settle w =>
    if s.run.state.works ∧ s.reads.inFlight = [] ∧ w.stopMark = false then
      setExpander (.sweeping .reads w) (setTap w.fields.lane w.tapUnderTest s)
    else s
  | _ => s

/-- SWEEP_TAP_SET (R175). -/
def execSweepTapSet (s : State) : Host.Outcome State Fault Refusal := .next (sweepTapSet s)

end Sys2Proof.Machine
end

