-- ==== Sys2Proof/Machine/Expansion.lean ====
section
/-! DEFINITION. The expander: examining and taking descriptors (R23, R24), walking a region and placing
its accesses (R28–R32), PAUSE and MARKER (R33–R37), and the commands that belong to it. -/

namespace Sys2Proof.Machine

/-! ## Taking a descriptor (R23, R24) -/

/-- A PAUSE is taken: timer started, refresh hold set for each present rank marked yes (R33). -/
def beginPause (q : Seq) (length : BitVec 16) (hold : PerRank Bool) (s : State) : State :=
  setExpander (.pausing q (length.toNat * Config.pauseUnit))
    (bothRanks.foldl (fun s r => if isPresent s r && hold.get r then holdRank r s else s) s)

/-- A descriptor is taken: EXPANDING, and the expander in the state of its kind (R23). -/
def takeDescriptor (d : Descriptor) (s : State) : State :=
  let s := setLife d.seq .expanding s
  match d.work with
  | .region r => setExpander (.expanding d.seq r.rowFirst r.colFirst) s
  | .pause length hold => beginPause d.seq length hold s
  | .sweep f => beginSweep d.seq f s
  | .marker _ => s

/-- A SWEEP is held ahead of the descriptor (R24). -/
def behindSweep (s : State) (q : Seq) : Bool :=
  (s.intake.queue.takeWhile fun d => d.seq != q).any fun d => d.work.isSweep

/-- The take condition: the head, for a fenced descriptor and for one behind a SWEEP (R24). -/
def mayTake (s : State) (d : Descriptor) : Bool :=
  !(d.work.fenced || behindSweep s d.seq) || headSeq? s == some d.seq

/-- The oldest WAITING descriptor. -/
def oldestWaiting (s : State) : Option Descriptor :=
  s.intake.queue.find? fun d => d.life == .waiting

/-- Examines the oldest WAITING descriptor; a MARKER becomes COMPLETE and the next is examined, for as
many descriptors as are held (R23, R37). -/
def examineUpTo : Nat → State → State
  | 0, s => s
  | n + 1, s =>
    match oldestWaiting s with
    | none => s
    | some d =>
      if d.work.isMarker then examineUpTo n (setLife d.seq .complete s)
      else if mayTake s d then takeDescriptor d s
      else setExpander (.fenceWait d.seq) s

/-- An IDLE expander in RUNNING examines the oldest WAITING descriptor (R23). -/
def examine (s : State) : State :=
  if s.expander.isIdle && s.run.state == .running then examineUpTo s.intake.queue.length s else s

/-- In FENCE_WAIT, the descriptor in hand is taken once it is the head in RUNNING (R24). -/
def fenceTake (s : State) : State :=
  match s.expander with
  | .fenceWait q =>
    if s.run.state = .running ∧ headSeq? s = some q then
      match findDescriptor s q with
      | some d => takeDescriptor d s
      | none => s
    else s
  | _ => s

/-! ## Walking a region (R28) -/

/-- The burst after (row, col) on the walk, or none after the last (R28). -/
def nextBurst (r : Region) (row col : Nat) : Option (Nat × Nat) :=
  match r.walk with
  | .rowMajor =>
    if col + 1 < r.colFirst + r.colCount then some (row, col + 1)
    else if row + 1 < r.rowFirst + r.rowCount then some (row + 1, r.colFirst)
    else none
  | .columnMajor =>
    if row + 1 < r.rowFirst + r.rowCount then some (row + 1, col)
    else if col + 1 < r.colFirst + r.colCount then some (r.rowFirst, col + 1)
    else none

/-- A row visit ends at this burst: the walk's next burst is in another row, or there is none (R31). -/
def endsRowVisit (r : Region) (row col : Nat) : Bool :=
  match nextBurst r row col with
  | some (row', _) => row' != row
  | none => true

/-- The close-after mark of a burst's last access, and of an access that is not its last (R31). -/
def closeAfter (r : Region) (row col : Nat) (lastOfBurst : Bool) : Bool :=
  match r.close with
  | .keep => false
  | .closeEach => true
  | .closeRowEnd => lastOfBurst && endsRowVisit r row col

/-- One access of a region's burst, with the slots as they stand (R29, R30). -/
def makeAccess (s : State) (q : Seq) (r : Region) (row col : Nat) (op : AccessOp)
    (invert lastOfBurst : Bool) : Access where
  seq := q
  op := op
  addr := ⟨r.bank, row, col⟩
  pattern := ⟨{ r.pattern with invert := invert }, s.pattern.slots⟩
  closeAfter := closeAfter r row col lastOfBurst
  sweepRead := false
  bypass := 0

/-- The accesses of one burst; a CHECK_WRITE's READ ahead of its WRITE, invert toggled (R29). -/
def burstAccesses (s : State) (q : Seq) (r : Region) (row col : Nat) : List Access :=
  match r.kind with
  | .write => [makeAccess s q r row col .write r.pattern.invert true]
  | .read => [makeAccess s q r row col .read r.pattern.invert true]
  | .checkWrite =>
    [makeAccess s q r row col .read r.pattern.invert false,
     makeAccess s q r row col .write (!r.pattern.invert) true]

/-- Accesses join the window at its tail (R39). -/
def place (as : List Access) (s : State) : State := { s with window := s.window ++ as }

/-- One placement of the region in hand, when the window has room (R32). -/
def placeBurst (q : Seq) (r : Region) (row col : Nat) (s : State) : State :=
  let as := burstAccesses s q r row col
  if s.window.length + as.length ≤ Config.windowCapacity then
    match nextBurst r row col with
    | some (row', col') => setExpander (.expanding q row' col') (place as s)
    | none => examine (setExpander .idle (setLife q .expanded (place as s)))
  else s

/-- ACCESS_PLACEMENT in EXPANDING, in RUNNING or DRAINING (R26, R32). -/
def accessPlacement (s : State) : State :=
  match s.expander with
  | .expanding q row col =>
    if s.run.state.works then
      match (findDescriptor s q).map Descriptor.work with
      | some (.region r) => placeBurst q r row col s
      | _ => s
    else s
  | _ => s

/-! ## PAUSE endings (R34, R35) -/

/-- The PAUSE in hand becomes COMPLETE; the hold is released and the expander is IDLE. -/
def endPause (q : Seq) (cut : Bool) (s : State) : State :=
  setExpander .idle
    (releaseHolds (modifyDescriptor q (fun d => { d with life := .complete, cutShort := cut }) s))

/-- PAUSE_EXPIRY: the pause timer has run out in RUNNING (R34, R26). -/
def pauseExpiry (s : State) : State :=
  match s.expander with
  | .pausing q remaining =>
    if s.run.state = .running ∧ remaining = 0 then examine (endPause q false s) else s
  | _ => s

/-! ## Sweep reads and the end of a sweep (R176, R178) -/

/-- A sweep read (R176). -/
def sweepAccess (s : State) (w : Sweep) : Access where
  seq := w.seq
  op := .read
  addr := w.fields.addr
  pattern := ⟨w.fields.pattern, s.pattern.slots⟩
  closeAfter := false
  sweepRead := true
  bypass := 0

/-- SWEEP_READ_PLACEMENT: one sweep read, when a place is free, in RUNNING or DRAINING (R176). -/
def sweepReadPlacement (s : State) : State :=
  match s.expander with
  | .sweeping .reads w =>
    if s.run.state.works ∧ s.window.length < Config.windowCapacity then
      let w' := { w with readsPlaced := w.readsPlaced + 1, readsOutstanding := w.readsOutstanding + 1 }
      let step := if w'.readsPlaced = w.fields.readsPerTap then SweepStep.collect else .reads
      setExpander (.sweeping step w') (place [sweepAccess s w] s)
    else s
  | _ => s

/-- The end of R178 may be taken: the last tap has finished, or STOP was taken in SWEEP_SETTLE (R179);
the in-flight list is empty, as R172 and R178 have it. -/
def sweepMayEnd (step : SweepStep) (w : Sweep) (s : State) : Bool :=
  s.run.state.works && s.reads.inFlight.isEmpty && (w.endDue || (step == .settle && w.stopMark))

/-- SWEEP_END: window search, tap left in force, the SWEEP COMPLETE (R178). -/
def sweepEnd (s : State) : State :=
  match s.expander with
  | .sweeping step w =>
    if sweepMayEnd step w s then
      let window := sweepWindow s w.fields
      let result := resultOfWindow w window
      examine
        (setExpander .idle
          (modifyDescriptor w.seq
            (fun d => { d with life := .complete, cutShort := w.stopMark, sweepResult := result })
            (setTap w.fields.lane (tapLeftInForce w window) s)))
    else s
  | _ => s

/-! ## The commands -/

/-- FENCE_TAKE (R24). -/
def execFenceTake (s : State) : Host.Outcome State Fault Refusal := .next (fenceTake s)

/-- ACCESS_PLACEMENT (R32). -/
def execAccessPlacement (s : State) : Host.Outcome State Fault Refusal := .next (accessPlacement s)

/-- PAUSE_EXPIRY (R34). -/
def execPauseExpiry (s : State) : Host.Outcome State Fault Refusal := .next (pauseExpiry s)

/-- SWEEP_READ_PLACEMENT (R176). -/
def execSweepReadPlacement (s : State) : Host.Outcome State Fault Refusal := .next (sweepReadPlacement s)

/-- SWEEP_END (R178). -/
def execSweepEnd (s : State) : Host.Outcome State Fault Refusal := .next (sweepEnd s)

end Sys2Proof.Machine
end

