-- ==== Sys2Proof/Machine/Pattern.lean ====
section
/-! DEFINITION. The pattern unit: bursts from a pattern specification and an address (R114–R120), the
compare (R122, R123), and the writes of the slots and the lane ignore mask (R112, R121). -/

namespace Sys2Proof.Machine

/-- The address byte A = (row + burst column) mod 256 (R117). -/
def addressByte (a : Addr) : Byte := BitVec.ofNat 8 (a.row + a.col)

/-- Slot `s` of a slot copy, counting on from 7 to 0 (R116). -/
def slotAt (slots : Vector Byte 8) (s : Nat) : Byte := slots[s % 8]'(Nat.mod_lt _ (by decide))

/-- The base value of lane `L` in beat `b` (R114 to R117). -/
def baseValue (p : PatternSpec) (a : Addr) (L b : Nat) : Bool :=
  match p.fields.format with
  | .uniform => (slotAt p.slots p.fields.slot.val).getLsbD b
  | .held => (slotAt p.slots p.fields.slot.val).getLsbD (L % 8)
  | .rotated => (slotAt p.slots (p.fields.slot.val + L)).getLsbD b
  | .address => (slotAt p.slots p.fields.slot.val).getLsbD b ^^ (addressByte a).getLsbD (L % 8)

/-- The value of lane `L` in beat `b`, after inversion (R118). -/
def laneValue (p : PatternSpec) (a : Addr) (L b : Nat) : Bool :=
  baseValue p a L b ^^ p.fields.invert

/-- The burst a specification gives at an address: write data and expected data (R119, R120). -/
def patternBurst (p : PatternSpec) (a : Addr) : Burst :=
  .ofFn fun b => BitVec.ofFnLE fun L => laneValue p a L.val b.val

/-- The result of a compare (R122). -/
structure CompareResult where
  laneMask : Word
  beatMask : Byte
deriving DecidableEq, Repr

/-- The lanes of one beat that are compared and differ (R122). -/
def beatDifference (ignore : Word) (captured expected : Burst) (b : Fin 8) : Word :=
  (captured[b] ^^^ expected[b]) &&& ~~~ignore

/-- The captured burst against the expected burst under a lane ignore mask (R122). -/
def compareBursts (ignore : Word) (captured expected : Burst) : CompareResult where
  laneMask := (List.finRange 8).foldl (fun m b => m ||| beatDifference ignore captured expected b) 0
  beatMask := BitVec.ofFnLE fun b => beatDifference ignore captured expected b != 0

/-- The burst miscompares when the lane mask is not empty (R122). -/
def CompareResult.miscompares (r : CompareResult) : Bool := r.laneMask != 0

/-- Byte lane `k` fails when the lane mask holds one of lanes 8k to 8k + 7 (R123). -/
def CompareResult.byteLaneFails (r : CompareResult) (k : Quad) : Bool :=
  r.laneMask.extractLsb' (8 * k.num) 8 != 0

/-- The low 8 bits become the slot's value, in any run state (R112). -/
def writeSlot (i : Fin 8) (v : Word) (s : State) : State :=
  { s with pattern.slots := s.pattern.slots.set i (v.extractLsb' 0 8) }

/-- All 32 lane ignore entries at once, in any run state (R121). -/
def writeIgnoreMask (v : Word) (s : State) : State :=
  { s with pattern.ignoreMask := v }

def patternSlotWrite (i : Fin 8) (be : BitVec 4) (v : Word) (s : State) : State :=
  ifFull be (writeSlot i v) s

def laneIgnoreMaskWrite (be : BitVec 4) (v : Word) (s : State) : State :=
  ifFull be (writeIgnoreMask v) s

/-- PATTERN_SLOT_WRITE (R112). -/
def execPatternSlotWrite (slot : Fin 8) (be : BitVec 4) (value : Word) (s : State) :
    Host.Outcome State Fault Refusal :=
  .next (patternSlotWrite slot be value s)

/-- LANE_IGNORE_MASK_WRITE (R121). -/
def execLaneIgnoreMaskWrite (be : BitVec 4) (value : Word) (s : State) :
    Host.Outcome State Fault Refusal :=
  .next (laneIgnoreMaskWrite be value s)

end Sys2Proof.Machine
end

