-- ==== Sys2Proof/Machine/ReadReturn.lean ====
section
/-! DEFINITION. Read return and compare: burst capture through the taps (R191), data arrivals and their
routing (R128–R131, R133), read deadlines (R132), write data phases (R135), and FAIL_LIMIT (R131). -/

namespace Sys2Proof.Machine

/-! ## A data arrival (R128–R131, R133) -/

/-- One access of the run statistics' reads completed (R168). -/
def countReadCompleted (s : State) : State :=
  { s with run.stats.readsCompleted := satInc s.run.stats.readsCompleted }

def countReadLost (s : State) : State :=
  { s with run.stats.readsLost := satInc s.run.stats.readsLost }

/-- With FAIL_LIMIT not 0 and reached, a halt request is sent (R131). -/
def checkFailLimit (s : State) : State :=
  if s.reads.failLimit ≠ 0 ∧ s.reads.failLimit.toNat ≤ s.run.stats.miscompares.toNat then
    sendHalt .failLimit s
  else s

/-- An ordinary miscompare: the descriptor's and the run's counts, the offer, the check (R129). -/
def routeMiscompare (e : InFlight) (r : CompareResult) (s : State) : State :=
  let s := modifyDescriptor e.seq (fun d => { d with miscompares := satInc d.miscompares }) s
  let s := { s with run.stats.miscompares := satInc s.run.stats.miscompares }
  checkFailLimit (sendOffer ⟨e.addr, r.laneMask, r.beatMask, e.seq⟩ s)

/-- The result of a sweep read goes to the sweep unit as a pass or a fail of its byte lane (R130). -/
def routeSweepRead (e : InFlight) (r : CompareResult) (s : State) : State :=
  match s.expander with
  | .sweeping _ w => sweepResult e.seq (r.byteLaneFails w.fields.lane) s
  | _ => s

/-- An ordinary read and a sweep read are routed apart (R129, R130). -/
def routeResult (e : InFlight) (r : CompareResult) (s : State) : State :=
  if e.sweepRead then routeSweepRead e r s
  else if r.miscompares then routeMiscompare e r s
  else s

/-- The burst is matched to the oldest entry, compared, counted and routed (R128). -/
def matchArrival (e : InFlight) (rest : List InFlight) (captured : Burst) (s : State) : State :=
  let r := compareBursts s.pattern.ignoreMask captured (patternBurst e.pattern e.addr)
  let s := completeAccess e.seq { s with reads.inFlight := rest }
  windDownSweep (routeResult e r (countReadCompleted s))

/-- An arrival that finds the list empty (R133). -/
def strayArrival (s : State) : State :=
  sendHalt .strayData { s with reads.strays := satInc s.reads.strays }

/-- A data arrival is taken; in a settle period it is discarded uncounted (R128, R133, R137). -/
def takeArrival (captured : Burst) (s : State) : State :=
  if settling s then s
  else
    match s.reads.inFlight with
    | e :: rest => matchArrival e rest captured s
    | [] => strayArrival s

/-! ## Burst capture (R191) -/

/-- Byte lane `k` supplies 0 for each beat it missed. -/
def capturedBeat (b : OpenBurst) (i : Nat) : Word :=
  ((b.beats.q3.getD i 0) ++ (b.beats.q2.getD i 0) ++ (b.beats.q1.getD i 0) ++ (b.beats.q0.getD i 0) :
    BitVec (8 + 8 + 8 + 8))

def assembleBurst (b : OpenBurst) : Burst := .ofFn fun i => capturedBeat b i.val

/-- The burst is complete: it becomes a data arrival, unless it opened or completes during a settle
period (R191). -/
def finishBurst (b : OpenBurst) (s : State) : State :=
  if b.discard || settling s then { s with capture.burst := none }
  else
    { s with
      capture.burst := none
      capture.arrivals := s.capture.arrivals ++ [assembleBurst b] }

/-- An open burst whose 6 tclk run out in the present tclk is complete (R191). -/
def finishAgedBurst (s : State) : State :=
  match s.capture.burst with
  | some b => if Config.burstSpan ≤ b.age then finishBurst b s else s
  | none => s

/-- 64ths of a tclk from the first edge to a position in the present tclk. -/
def sinceOpened (b : OpenBurst) (position : Nat) : Nat := 64 * b.age + position - b.position

/-- Every joined byte lane has captured 8 beats. -/
def burstFull (b : OpenBurst) : Bool :=
  b.beats.toList.all fun l => l.isEmpty || l.length == 8

/-- An edge of an open burst: a joined byte lane captures up to 8 beats, another joins within 2 tclk of
the first edge, and any other edge is ignored (R191). -/
def captureBeat (b : OpenBurst) (k : Quad) (position : Nat) (value : Byte) : OpenBurst :=
  match b.beats.get k with
  | [] =>
    if sinceOpened b position ≤ Config.joinSpan then { b with beats := b.beats.modify k fun _ => [value] }
    else b
  | beats =>
    if beats.length < 8 then { b with beats := b.beats.modify k fun l => l ++ [value] } else b

/-- The first edge on any byte lane's strobe opens a burst (R191). -/
def openBurst (k : Quad) (position : Nat) (value : Byte) (s : State) : OpenBurst where
  position := position
  age := 0
  beats := (PerQuad.all []).modify k fun _ => [value]
  discard := settling s

/-- A write data phase crosses the data lanes in the present tclk (R81). -/
def inWritePhase (s : State) : Bool :=
  s.reads.writePhases.any fun p => decide (1 ≤ p.remaining ∧ p.remaining ≤ Config.dataPhase)

/-- A burst is finished first when its 6 tclk ended before this position (R191). -/
def finishBefore (position : Nat) (s : State) : State :=
  match s.capture.burst with
  | some b => if 64 * Config.burstSpan ≤ sinceOpened b position then finishBurst b s else s
  | none => s

/-- The value a byte lane captures at an edge: its lanes at the capture point its tap sets (R191). -/
def capturePoint (s : State) (k : Quad) (samples : Vector Byte 32) : Byte :=
  samples[(s.sweep.taps.get k).toNat]'(s.sweep.taps.get k).isLt

/-- An edge outside write data phases. -/
def takeEdge (k : Quad) (position : Nat) (value : Byte) (s : State) : State :=
  match s.capture.burst with
  | none => { s with capture.burst := some (openBurst k position value s) }
  | some b =>
    let b' := captureBeat b k position value
    if burstFull b' then finishBurst b' s else { s with capture.burst := some b' }

/-- STROBE_EDGE (R191). -/
def strobeEdge (k : Quad) (position : Fin 64) (samples : Vector Byte 32) (s : State) : State :=
  if inWritePhase s then s
  else takeEdge k position.val (capturePoint s k samples) (finishBefore position.val s)

/-- The oldest complete burst, if one waits, is taken (R128). -/
def takeOldestArrival (s : State) : State :=
  match s.capture.arrivals with
  | b :: rest => takeArrival b { s with capture.arrivals := rest }
  | [] => s

/-- DATA_ARRIVAL: the oldest complete burst is taken (R128). With none waiting, the arrival is the
completion of an open burst whose 6 tclk run out in the present tclk, and stands at that moment of it
(R191, log 10). -/
def dataArrival (s : State) : State :=
  if s.capture.arrivals.isEmpty then takeOldestArrival (finishAgedBurst s) else takeOldestArrival s

/-! ## Read deadlines (R132) -/

/-- One entry removed as LOST: counted against its descriptor and the statistics, and told to the sweep
unit when it is a sweep read (R132). -/
def loseRead (s : State) (e : InFlight) : State :=
  let s := modifyDescriptor e.seq (fun d => { d.completeAccess s.run.state with lost := satInc d.lost }) s
  let s := countReadLost s
  if e.sweepRead then sweepResult e.seq true s else s

/-- The expiry of the oldest entry's deadline: every entry is LOST (R132). -/
def takeDeadline (s : State) : State :=
  let entries := s.reads.inFlight
  let s := entries.foldl loseRead { s with reads.inFlight := [] }
  sendHalt .readTimeout (windDownSweep { s with reads.timeouts := satInc s.reads.timeouts })

/-- DEADLINE_EXPIRY: the oldest entry's count has reached 0 (R127, R132). -/
def deadlineExpiry (s : State) : State :=
  match s.reads.inFlight with
  | e :: _ => if e.deadline = 0 then takeDeadline s else s
  | [] => s

/-! ## Write data phases (R135) -/

/-- The oldest write data phase ends: its access completes and its bank's write recovery starts. -/
def takeWritePhaseEnd (p : WritePhase) (rest : List WritePhase) (s : State) : State :=
  completeAccess p.seq
    (modifyBank p.addr.bank (fun b => b.writePhaseEnded (tclk s .writeRecovery))
      { s with reads.writePhases := rest })

/-- WRITE_DATA_PHASE_END: the oldest entry's count has reached 0 (R135). -/
def writeDataPhaseEnd (s : State) : State :=
  match s.reads.writePhases with
  | p :: rest => if p.remaining = 0 then takeWritePhaseEnd p rest s else s
  | [] => s

/-- The two beats the MT4 drives on the 32 lanes in the present tclk of a write data phase, in beat order;
outside one it drives no lane (R81, R191). -/
def drivenBeats (s : State) : Option (Word × Word) :=
  (s.reads.writePhases.find? fun p => decide (1 ≤ p.remaining ∧ p.remaining ≤ Config.dataPhase)).map
    fun p =>
      let burst := patternBurst p.pattern p.addr
      let j := 2 * (Config.dataPhase - p.remaining)
      (burst.toList.getD j 0, burst.toList.getD (j + 1) 0)

/-- The edges the MT4 drives on a byte lane's strobe in the present tclk, as positions in 64ths of it: in a
write data phase one at the centre of each of the two beats on every strobe, outside one none (R191). -/
def drivenEdges (s : State) (_lane : Quad) : List (Fin 64) := if inWritePhase s then [16, 48] else []

/-! ## FAIL_LIMIT (R131) -/

def writeFailLimit (v : Word) (s : State) : State :=
  { s with reads.failLimit := v.extractLsb' 0 16 }

def failLimitWrite (be : BitVec 4) (v : Word) (s : State) : State := ifFull be (writeFailLimit v) s

/-! ## The commands -/

/-- FAIL_LIMIT_WRITE (R131). -/
def execFailLimitWrite (be : BitVec 4) (value : Word) (s : State) : Host.Outcome State Fault Refusal :=
  .next (failLimitWrite be value s)

/-- STROBE_EDGE (R191). -/
def execStrobeEdge (lane : Quad) (position : Fin 64) (samples : Vector Byte 32) (s : State) :
    Host.Outcome State Fault Refusal :=
  .next (strobeEdge lane position samples s)

/-- DATA_ARRIVAL (R128). -/
def execDataArrival (s : State) : Host.Outcome State Fault Refusal := .next (dataArrival s)

/-- DEADLINE_EXPIRY (R132). -/
def execDeadlineExpiry (s : State) : Host.Outcome State Fault Refusal := .next (deadlineExpiry s)

/-- WRITE_DATA_PHASE_END (R135). -/
def execWriteDataPhaseEnd (s : State) : Host.Outcome State Fault Refusal := .next (writeDataPhaseEnd s)

end Sys2Proof.Machine
end

