-- ==== Sys2Proof/Machine/RunControl.lean ====
section
/-! DEFINITION. Run control: PUSH (R7–R13) and the run commands (R153–R156, R163), halts (R157), the alert
(R160), the ends of DRAINING and ABORTING (R161, R162), retirement (R165–R167), and the interrupt words. -/

namespace Sys2Proof.Machine

/-! ## PUSH (R7, R13) -/

/-- The descriptor an accepted PUSH appends (R13). -/
def newDescriptor (s : State) (w : Work) : Descriptor where
  seq := s.intake.nextSeq
  work := w
  life := .waiting
  total := w.total
  issued := 0
  completed := 0
  miscompares := 0
  lost := 0
  cutShort := false
  sweepResult := ⟨false, 0, 0, 0, 0⟩

/-- An accepted PUSH; an expander that waits for a descriptor examines it (R13, R23). -/
def acceptPush (w : Work) (s : State) : State :=
  examine
    (answer .accepted s.intake.nextSeq
      { s with
        intake.queue := s.intake.queue ++ [newDescriptor s w]
        intake.nextSeq := s.intake.nextSeq + 1 })

/-- The checks of PUSH, in order: the first that fails, or the work to be accepted (R7). -/
def checkPush (s : State) : Except ResultCode Work :=
  if s.run.state = .aborting then .error .engineBusy
  else if ¬ s.intake.queue.length < Config.queueCapacity then .error .queueFull
  else
    match stagedWork s with
    | none => .error .badKind
    | some w =>
      if !pauseFits w then .error .badPause
      else if !addressFits s.timing.geometry w then .error .badAddress
      else if !sweepFits s w then .error .badSweep
      else .ok w

/-- PUSH taken (R7). -/
def pushCommand (s : State) : State :=
  match checkPush s with
  | .error c => answer c 0 (takeCommand 1 0 s)
  | .ok w => acceptPush w (takeCommand 1 0 s)

/-! ## START, STOP, RESUME (R153, R154, R156) -/

/-- A START in a settle period may lengthen it to FOUR_OPEN_WINDOW of the new working set (R164). -/
def lengthenSettle (window : Nat) (t : Settle) : Settle := { t with length := max t.length window }

/-- The effects of a START that passes validation, before the expander examines (R153). -/
def enterRunning (s : State) : State :=
  answer .accepted 0
    { s with
      timing.working := s.timing.stored
      run.state := .running
      run.stats := .zero
      run.haltCause := none
      run.drainRequested := false
      run.settle := s.run.settle.map (lengthenSettle s.timing.stored.fourOpenWindow.toNat) }

/-- START taken (R153, R68). -/
def startCommand (s : State) : State :=
  let s := takeCommand 2 0 s
  if s.run.state = .idle then
    match startFault s with
    | some i => answer .configInvalid (.ofNat 8 i) s
    | none => examine (enterRunning s)
  else answer .wrongState 0 s

/-- STOP's effect on the expander, the run state being DRAINING (R25, R179). -/
def stopExpander (s : State) : State :=
  match s.expander with
  | .idle => s
  | .fenceWait _ => setExpander .idle s
  | .expanding _ _ _ => s
  | .pausing q _ => endPause q true s
  | .sweeping step w => setExpander (.sweeping step { w with stopMark := true }) s

/-- STOP taken (R154). -/
def stopCommand (s : State) : State :=
  let s := takeCommand 3 0 s
  match s.run.state with
  | .running => answer .accepted 0 (stopExpander { s with run.state := .draining })
  | .draining => answer .accepted 0 s
  | _ => answer .wrongState 0 s

/-- The expander continues in RUNNING after RESUME (R26). -/
def resumeExpander (s : State) : State := examine (fenceTake s)

/-- RESUME taken (R156). -/
def resumeCommand (s : State) : State :=
  let s := takeCommand 4 0 s
  if s.run.state = .halted then
    if s.run.drainRequested then answer .accepted 0 { s with run.state := .draining }
    else answer .accepted 0 (resumeExpander { s with run.state := .running })
  else answer .wrongState 0 s

/-! ## ABORT (R155) -/

/-- The intake queue is emptied, each descriptor counted in the abort-discard count (R155, R162). -/
def discardQueue (s : State) : State :=
  { s with
    intake.queue := []
    run.abortDiscards := satAdd s.run.abortDiscards s.intake.queue.length }

/-- ABORT's effect on the expander: IDLE at once, or the abort mark set on a sweep (R27, R181). -/
def abortExpander (s : State) : State :=
  match s.expander with
  | .sweeping step w => windDownSweep (setExpander (.sweeping step { w with abortMark := true }) s)
  | _ => setExpander .idle s

/-- Entry to ABORTING: the issue window is emptied and the expander wound down (R42, R155). -/
def enterAborting (s : State) : State :=
  abortExpander { s with run.state := .aborting, window := [] }

/-- ABORT taken (R155). -/
def abortCommand (s : State) : State :=
  let s := takeCommand 5 0 s
  match s.run.state with
  | .idle => answer .accepted (.ofNat 8 s.intake.queue.length) (discardQueue s)
  | .aborting => answer .accepted 0 s
  | _ => answer .accepted 0 (enterAborting s)

/-! ## SOFT_RESET (R163, R164) -/

/-- The largest of the five terms of R164, taken in the present state. -/
def settleTerms (s : State) : Nat :=
  max (tclk s .refreshTime + tclk s .closeTime)
    (max (tclk s .fourOpenWindow)
      (max (tclk s .openToClose)
        (max (tclk s .writeLatency + Config.dataPhase + tclk s .writeRecovery) (longestTableTimer s))))

/-- The full length of the settle period in progress, what a START has added to it included; 0 with none. -/
def fullSettleLength (s : State) : Nat := (s.run.settle.map Settle.length).getD 0

/-- The length of the settle period a SOFT_RESET starts: the largest term, and for one taken in a settle
period no less than the full length from which that starts again (R164). That the terms of its own moment
count as well, where they are longer, is the model's choice (log 24). -/
def settleLength (s : State) : Nat := max (fullSettleLength s) (settleTerms s)

/-- The original tap is restored when a sweep is in progress (R182). -/
def restoreSweptTap (s : State) : State :=
  match s.expander with
  | .sweeping _ w => setTap w.fields.lane w.originalTap s
  | _ => s

/-- Every block's volatile state returned to its starting value (R163). -/
def softReset (s : State) : State :=
  let length := settleLength s
  let s := restoreSweptTap s
  { s with
    host.staging := .replicate 8 0
    intake := { queue := [], nextSeq := 0 }
    expander := .idle
    refreshHold := .all false
    window := []
    banks := .all (.all (.all .initial))
    ranks := .tabulate fun r => { RankRecord.initial with interval := restartedInterval s r }
    holds := .expired
    arbiter.pendingClose := []
    arbiter.lastRung := 0
    refresh.missed := 0
    reads.inFlight := []
    reads.writePhases := []
    reads.timeouts := 0
    reads.strays := 0
    run.state := .idle
    run.haltCause := none
    run.drainRequested := false
    run.stats := .zero
    run.completions := []
    run.flags := 0
    run.alerts := 0
    run.abortDiscards := 0
    run.settle := some { elapsed := 0, length := length } }

/-- SOFT_RESET taken (R163). -/
def softResetCommand (s : State) : State := answer .accepted 0 (softReset (takeCommand 6 0 s))

/-- The settle period has run its length (R164). -/
def settlePeriodEnd (s : State) : State :=
  match s.run.settle with
  | some t => if t.length ≤ t.elapsed then { s with run.settle := none } else s
  | none => s

/-! ## Halts and the alert (R157, R160, R192) -/

/-- A halt request is taken (R157). -/
def takeHalt (c : HaltCause) (s : State) : State :=
  match s.run.state with
  | .running =>
    raiseFlag .halt
      { s with run.state := .halted, run.haltCause := some c, run.drainRequested := false }
  | .draining =>
    raiseFlag .halt
      { s with run.state := .halted, run.haltCause := some c, run.drainRequested := true }
  | _ => s

/-- HALT_REQUEST: a request with this cause, if one is on its way, is taken (R157, log 6). -/
def haltRequest (c : HaltCause) (s : State) : State :=
  if c ∈ s.messages.haltRequests then
    takeHalt c { s with messages.haltRequests := dropFirst c s.messages.haltRequests }
  else s

/-- A rising event on the alert input is taken (R160). -/
def takeAlert (s : State) : State :=
  let s := loseBanks { s with run.alerts := satInc s.run.alerts }
  if s.run.state.works then sendHalt .targetAlert s else s

/-- A sample that finds ALERT active: a rising event when the sample before it was inactive (R192). -/
def targetAlert (s : State) : State :=
  if s.capture.alertWasActive then s else takeAlert { s with capture.alertWasActive := true }

/-- A sample that finds ALERT inactive (R192). -/
def alertInactiveSample (s : State) : State := { s with capture.alertWasActive := false }

/-! ## Reaching IDLE (R161, R162) -/

/-- DRAINING becomes IDLE once its conditions hold (R161). -/
def drainEnd (s : State) : State :=
  if s.run.state = .draining ∧ drained s then raiseFlag .idleReached { s with run.state := .idle } else s

/-- ABORTING ends once its conditions hold (R162). -/
def abortEnd (s : State) : State :=
  if s.run.state = .aborting ∧ abortFinished s then
    raiseFlag .idleReached (releaseHolds { discardQueue s with run.state := .idle })
  else s

/-! ## Retirement and the completion FIFO (R165–R167) -/

/-- The kind detail of a completion record (R166). -/
def Descriptor.detail (d : Descriptor) : KindDetail :=
  match d.work with
  | .marker code => .marker code
  | .sweep _ => .sweep d.sweepResult
  | .region _ => .none
  | .pause _ _ => .none

/-- The completion record of a descriptor (R166). -/
def Descriptor.record (d : Descriptor) : CompletionRecord where
  seq := d.seq
  kind := d.work.kind
  status := d.status
  issued := d.issued
  miscompares := d.miscompares
  lost := d.lost
  detail := d.detail

/-- Retirement can take place in RUNNING, DRAINING and HALTED (R165). -/
def RunState.retires : RunState → Bool
  | .running => true
  | .draining => true
  | .halted => true
  | _ => false

/-- The head retires: its record joins the FIFO, and the flags are set (R165). -/
def retireHead (d : Descriptor) (rest : List Descriptor) (s : State) : State :=
  let s := raiseFlag .completion
    { s with run.completions := s.run.completions ++ [d.record], intake.queue := rest }
  if d.work.isMarker then raiseFlag .marker s else s

/-- RETIREMENT of a COMPLETE head with room in the FIFO (R165). -/
def retirement (s : State) : State :=
  match s.intake.queue with
  | d :: rest =>
    if d.life = .complete ∧ s.run.completions.length < Config.completionCapacity ∧ s.run.state.retires then
      retireHead d rest s
    else s
  | [] => s

/-- POP_COMPLETION taken (R167). -/
def popCommand (s : State) : State :=
  let s := takeCommand 7 0 s
  match s.run.completions with
  | _ :: rest => answer .accepted (.ofNat 8 rest.length) { s with run.completions := rest }
  | [] => answer .empty 0 s

/-! ## Interrupt words (R169, R170) -/

def writeEnables (v : Word) (s : State) : State := { s with run.enables := v.extractLsb' 0 6 }

def flagsWrite (be : BitVec 4) (v : Word) (s : State) : State := ifFull be (clearFlags v) s

def enablesWrite (be : BitVec 4) (v : Word) (s : State) : State := ifFull be (writeEnables v) s

/-! ## The commands -/

/-- POWER_ON_RESET: every piece of state at its power-on value (R193); the queue is the caller's. -/
def execPowerOnReset (s : State) : Host.Outcome State Fault Refusal :=
  .next { State.reset with pending := s.pending }

/-- PUSH (R7). -/
def execPush (s : State) : Host.Outcome State Fault Refusal := .next (pushCommand s)

/-- START (R153). -/
def execStart (s : State) : Host.Outcome State Fault Refusal := .next (startCommand s)

/-- STOP (R154). -/
def execStop (s : State) : Host.Outcome State Fault Refusal := .next (stopCommand s)

/-- RESUME (R156). -/
def execResume (s : State) : Host.Outcome State Fault Refusal := .next (resumeCommand s)

/-- ABORT (R155). -/
def execAbort (s : State) : Host.Outcome State Fault Refusal := .next (abortCommand s)

/-- SOFT_RESET (R163). -/
def execSoftReset (s : State) : Host.Outcome State Fault Refusal := .next (softResetCommand s)

/-- POP_COMPLETION (R167). -/
def execPopCompletion (s : State) : Host.Outcome State Fault Refusal := .next (popCommand s)

/-- INTERRUPT_FLAGS_WRITE (R169). -/
def execInterruptFlagsWrite (be : BitVec 4) (value : Word) (s : State) :
    Host.Outcome State Fault Refusal :=
  .next (flagsWrite be value s)

/-- INTERRUPT_ENABLES_WRITE (R170). -/
def execInterruptEnablesWrite (be : BitVec 4) (value : Word) (s : State) :
    Host.Outcome State Fault Refusal :=
  .next (enablesWrite be value s)

/-- TARGET_ALERT (R160). -/
def execTargetAlert (s : State) : Host.Outcome State Fault Refusal := .next (targetAlert s)

/-- ALERT_INACTIVE_SAMPLE (R192). -/
def execAlertInactiveSample (s : State) : Host.Outcome State Fault Refusal :=
  .next (alertInactiveSample s)

/-- HALT_REQUEST (R157). -/
def execHaltRequest (cause : HaltCause) (s : State) : Host.Outcome State Fault Refusal :=
  .next (haltRequest cause s)

/-- RETIREMENT (R165). -/
def execRetirement (s : State) : Host.Outcome State Fault Refusal := .next (retirement s)

/-- DRAIN_END (R161). -/
def execDrainEnd (s : State) : Host.Outcome State Fault Refusal := .next (drainEnd s)

/-- ABORT_END (R162). -/
def execAbortEnd (s : State) : Host.Outcome State Fault Refusal := .next (abortEnd s)

/-- SETTLE_PERIOD_END (R164). -/
def execSettlePeriodEnd (s : State) : Host.Outcome State Fault Refusal := .next (settlePeriodEnd s)

end Sys2Proof.Machine
end

