-- ==== Sys2Proof/Machine/Clock.lean ====
section
/-! DEFINITION. One tclk: the command opportunity, the expiries of the tclk that no command of their own
has taken, and the passing of the tclk over every count (log 2, log 3). -/

namespace Sys2Proof.Machine

/-! ## Expiries left untaken in their tclk (log 3) -/

/-- Every timer expiry of the bank table that is due. -/
def expireTable (s : State) : State :=
  { mapBanks BankRecord.expireAll s with ranks := s.ranks.map RankRecord.expireRefreshTime }

/-- `n` data arrivals, one after another. -/
def repeatArrivals : Nat → State → State
  | 0, s => s
  | n + 1, s => repeatArrivals n (dataArrival s)

/-- Every data arrival not taken yet: those of the complete bursts, oldest first, and that of a burst whose
6 tclk run out in this tclk. -/
def takeArrivals (s : State) : State := repeatArrivals (s.capture.arrivals.length + 1) s

/-- The tclk's untaken expiries and arrivals, in a fixed order. -/
def settleOverdue (s : State) : State :=
  settlePeriodEnd
    (pauseExpiry
      (intervalExpiry .r1
        (intervalExpiry .r0
          (deadlineExpiry (takeArrivals (writeDataPhaseEnd (expireTable s)))))))

/-! ## The passing of one tclk -/

/-- One tclk of a hold: a hold that has run out is no longer running (R71). -/
def countHold (t : Timer) : Timer := t.expire.count

def InFlight.count (e : InFlight) : InFlight := { e with deadline := e.deadline - 1 }

def WritePhase.count (p : WritePhase) : WritePhase := { p with remaining := p.remaining - 1 }

/-- The pause timer counts in RUNNING and is kept in HALTED (R26). -/
def countPause (st : RunState) : Expander → Expander
  | .pausing q n => if st = .running then .pausing q (n - 1) else .pausing q n
  | e => e

def Settle.count (t : Settle) : Settle := { t with elapsed := t.elapsed + 1 }

def OpenBurst.count (b : OpenBurst) : OpenBurst := { b with age := b.age + 1 }

/-- One tclk passes over every timer, hold, age, idle time, deadline and period. -/
def passTclk (s : State) : State :=
  { mapBanks BankRecord.count s with
    ranks := s.ranks.map RankRecord.count
    holds := s.holds.map countHold
    reads.inFlight := s.reads.inFlight.map InFlight.count
    reads.writePhases := s.reads.writePhases.map WritePhase.count
    expander := countPause s.run.state s.expander
    run.settle := s.run.settle.map Settle.count
    capture.burst := s.capture.burst.map OpenBurst.count }

/-- COMMAND_OPPORTUNITY: the arbiter takes the opportunity of this tclk, what is still due in it is taken,
and the tclk passes. -/
def commandOpportunity (s : State) : State := passTclk (settleOverdue (takeOpportunity s))

/-- COMMAND_OPPORTUNITY (R82). -/
def execCommandOpportunity (s : State) : Host.Outcome State Fault Refusal :=
  .next (commandOpportunity s)

end Sys2Proof.Machine
end

