-- ==== Sys2Proof/Machine/RegisterWindow.lean ====
section
/-! DEFINITION. The register window: what each word reads (R185–R189), and the outcome of every local-bus
access (R183, R184). -/

namespace Sys2Proof.Machine

/-! ## Codes (R185, R186, R189) -/

def ResultCode.code : ResultCode → Nat
  | .none => 0
  | .accepted => 1
  | .queueFull => 2
  | .badKind => 3
  | .badAddress => 4
  | .badSweep => 5
  | .badPause => 6
  | .engineBusy => 7
  | .wrongState => 8
  | .configInvalid => 9
  | .empty => 10

def RunState.code : RunState → Nat
  | .idle => 0
  | .running => 1
  | .draining => 2
  | .halted => 3
  | .aborting => 4

/-- NONE is 0 (R186). -/
def haltCode : Option HaltCause → Nat
  | none => 0
  | some .failLimit => 1
  | some .targetAlert => 2
  | some .readTimeout => 3
  | some .strayData => 4
  | some .refreshMissed => 5

def Expander.code : Expander → Nat
  | .idle => 0
  | .expanding _ _ _ => 1
  | .fenceWait _ => 2
  | .pausing _ _ => 3
  | .sweeping .settle _ => 4
  | .sweeping .reads _ => 5
  | .sweeping .collect _ => 6

/-- The seq in hand, 0 when none is (R187). -/
def Expander.seqInHand : Expander → Seq
  | .idle => 0
  | .expanding q _ _ => q
  | .fenceWait q => q
  | .pausing q _ => q
  | .sweeping _ w => w.seq

def BankState.code : BankState → Nat
  | .unknown => 0
  | .closed => 1
  | .opening _ => 2
  | .opened _ => 3
  | .closing => 4

def RankState.code : RankState → Nat
  | .ready => 0
  | .refreshing => 1

def IntervalTimer.code : IntervalTimer → Nat
  | .stopped => 0
  | .running _ => 1
  | .held _ => 2

def RecordView.code : RecordView → Nat
  | .empty => 0
  | .byIndex _ => 1
  | .released _ => 2

def Kind.code : Kind → Nat
  | .write => 1
  | .read => 2
  | .checkWrite => 3
  | .pause => 4
  | .marker => 5
  | .sweep => 6

def Status.code : Status → Nat
  | .done => 0
  | .miscompare => 1
  | .lost => 2
  | .cutShort => 3

/-! ## Building a word -/

/-- A field of `len` bits that starts at bit `lo`; bits no field defines read 0 (R186). -/
def field (lo len v : Nat) : Word := BitVec.ofNat 32 (v % 2 ^ len * 2 ^ lo)

/-- A yes-or-no field at bit `lo` (R187). -/
def flagField (lo : Nat) (b : Bool) : Word := field lo 1 b.toNat

/-! ## The status words (R187) -/

def runWord (s : State) : Word :=
  field 0 3 s.run.state.code ||| field 4 3 (haltCode s.run.haltCause) |||
    flagField 7 s.run.drainRequested ||| flagField 8 (settling s) |||
    field 12 3 s.expander.code ||| field 16 8 s.expander.seqInHand.toNat

def queueWord (s : State) : Word :=
  field 0 6 s.intake.queue.length ||| field 8 8 ((headSeq? s).getD 0).toNat |||
    field 16 8 s.intake.nextSeq.toNat

def countsWord (s : State) : Word :=
  field 0 5 s.window.length ||| field 8 4 s.reads.inFlight.length |||
    field 12 5 s.reads.writePhases.length ||| field 20 5 s.run.completions.length |||
    field 26 5 (starvedCount s)

def eventsWord (s : State) : Word :=
  field 0 4 s.arbiter.lastRung ||| field 8 8 s.reads.timeouts.toNat |||
    field 16 8 s.reads.strays.toNat ||| field 24 8 s.run.alerts.toNat

/-- Eight bank state codes of four bits, the lowest bank number in bits 3–0. -/
def bankWord (s : State) (w : Quad) : Word :=
  BitVec.ofNat 32
    (((allBanks.drop (8 * w.num)).take 8).foldr (fun b n => (bankAt s b).state.code + 16 * n) 0)

def rankWord (s : State) : Word :=
  field 0 1 s.ranks.r0.state.code ||| flagField 1 s.ranks.r0.recoveryNeeded |||
    field 8 1 s.ranks.r1.state.code ||| flagField 9 s.ranks.r1.recoveryNeeded

/-- The run statistics in the order of R168. -/
def statistic (s : State) (i : Fin 8) : Word :=
  match i with
  | 0 => s.run.stats.opens
  | 1 => s.run.stats.closes
  | 2 => s.run.stats.readsIssued
  | 3 => s.run.stats.writesIssued
  | 4 => s.run.stats.readsCompleted
  | 5 => s.run.stats.readsLost
  | 6 => s.run.stats.refreshes
  | 7 => s.run.stats.miscompares.setWidth 32

def refreshWord (s : State) : Word :=
  flagField 0 s.refresh.enable.r0 ||| field 1 2 s.ranks.r0.interval.code |||
    field 4 4 s.ranks.r0.debt ||| flagField 8 s.refresh.enable.r1 |||
    field 9 2 s.ranks.r1.interval.code ||| field 12 4 s.ranks.r1.debt

/-- The sweep status word; all 0 when no sweep is in progress (11, 11.1). -/
def sweepStatusWord (s : State) : Word :=
  match s.expander with
  | .sweeping _ w =>
    flagField 0 true ||| field 1 2 w.fields.lane.num ||| field 8 5 w.tapUnderTest.toNat |||
      field 16 5 w.originalTap.toNat ||| field 24 8 w.seq.toNat
  | _ => 0

def geometryWord (g : Geometry) : Word :=
  field 0 2 g.ranksPresent.toNat ||| field 8 5 g.rowsCode.toNat ||| field 16 8 g.burstsPerRow.toNat

/-! ## Completion and fail record words (R189) -/

/-- Word C3 (R189): 0 for the kinds without a detail. -/
def detailWord : KindDetail → Word
  | .none => 0
  | .marker code => field 0 8 code.toNat
  | .sweep r =>
    field 0 5 r.first.toNat ||| field 8 5 r.last.toNat ||| field 16 6 r.width.toNat |||
      field 24 5 r.tapLeft.toNat ||| flagField 31 r.found

def completionWord (c : CompletionRecord) : Quad → Word
  | .q0 => field 0 8 c.seq.toNat ||| field 8 3 c.kind.code ||| field 12 2 c.status.code
  | .q1 => field 0 25 c.issued
  | .q2 => field 0 16 c.miscompares.toNat ||| field 16 8 c.lost.toNat
  | .q3 => detailWord c.detail

def failWord (r : FailRecord) (i : Fin 5) : Word :=
  match i with
  | 0 =>
    field 0 1 r.key.bank.rank.num ||| field 1 2 r.key.bank.bankSet.num ||| field 3 2 r.key.bank.bank.num |||
      field 8 7 r.key.col
  | 1 => field 0 17 r.key.row
  | 2 => r.laneMask
  | 3 => field 0 8 r.beatMask.toNat ||| field 8 8 r.firstSeq.toNat ||| field 16 8 r.lastSeq.toNat
  | 4 => field 0 16 r.hits.toNat

/-! ## What a word reads (R186) -/

def commandWord (h : HostPort) : Word := field 0 4 h.commandCode.toNat ||| field 8 2 h.commandMask.toNat

def resultWord (h : HostPort) : Word := field 0 8 h.resultCode.code ||| field 8 8 h.resultDetail.toNat

def sweepEntryWord (e : SweepEntry) : Word := field 0 8 e.count.toNat ||| flagField 8 e.tested

/-- The value of each defined word; the empty completion port and record view read 0 (R183). -/
def readWord (s : State) : WindowWord → Word
  | .family => Config.identification
  | .revision => Config.revision
  | .command => commandWord s.host
  | .result => resultWord s.host
  | .staging i => stagingWord s i
  | .statusRun => runWord s
  | .statusQueue => queueWord s
  | .statusCounts => countsWord s
  | .statusEvents => eventsWord s
  | .statusAborts => s.run.abortDiscards.setWidth 32
  | .bankStates w => bankWord s w
  | .rankStates => rankWord s
  | .statistic i => statistic s i
  | .timing p => (s.timing.stored.get p).setWidth 32
  | .geometry => geometryWord s.timing.geometry
  | .refreshStatus => refreshWord s
  | .refreshMissed => s.refresh.missed.setWidth 32
  | .haltOnMiss => flagField 0 s.refresh.haltOnMiss
  | .slot i => s.pattern.slots[i].setWidth 32
  | .ignoreMask => s.pattern.ignoreMask
  | .tap k => (s.sweep.taps.get k).setWidth 32
  | .completion w => ((s.run.completions.head?).map fun c => completionWord c w).getD 0
  | .failCount => field 0 6 s.failLog.records.length
  | .failOverflow => s.failLog.overflow.setWidth 32
  | .recordIndex => s.failLog.index.setWidth 32
  | .viewState => field 0 2 s.failLog.view.code
  | .failLimit => s.reads.failLimit.setWidth 32
  | .failRecord i => ((s.failLog.view.record?).map fun r => failWord r i).getD 0
  | .sweepEntry t => sweepEntryWord (sweepEntryAt s t)
  | .sweepStatus => sweepStatusWord s
  | .flags => s.run.flags.setWidth 32
  | .enables => s.run.enables.setWidth 32
  | .badAccess => s.host.badAccesses.setWidth 32

/-! ## Reads (R183) -/

/-- LD[31:0] carries the answer of a read (log 8). -/
def returnWord (v : Word) (s : State) : State := { s with host.readData := v }

/-- A read that is not performed as asked returns 0 and counts as a bad access. -/
def badRead (s : State) : State := countBadAccess (returnWord 0 s)

/-- The word holds something to read: the completion port a record, a fail record word a view. -/
def hasContent (s : State) : WindowWord → Bool
  | .completion _ => !s.run.completions.isEmpty
  | .failRecord _ => s.failLog.view.record?.isSome
  | _ => true

/-- A read of a defined word. -/
def readDefined (w : WindowWord) (be : BitVec 4) (s : State) : State :=
  if fullEnables be && hasContent s w then returnWord (readWord s w) s else badRead s

/-! ## Writes (R183) -/

/-- An engine command by its code; a code that names none is a bad access (R185). -/
def engineWrite (v : Word) (s : State) : State :=
  match (v.extractLsb' 0 4).toNat with
  | 1 => pushCommand s
  | 2 => startCommand s
  | 3 => stopCommand s
  | 4 => resumeCommand s
  | 5 => abortCommand s
  | 6 => softResetCommand s
  | 7 => popCommand s
  | 8 => failReleaseCommand s
  | 9 => failClearCommand s
  | 10 => refreshEnableCommand (v.extractLsb' 8 2) s
  | 11 => refreshDisableCommand (v.extractLsb' 8 2) s
  | _ => countBadAccess s

/-- A staging word takes the value in any run state (R6, R186). -/
def writeStaging (i : Fin 8) (v : Word) (s : State) : State :=
  { s with host.staging := s.host.staging.set i v }

/-- The counter's word set to 0, whatever is written (R184). -/
def badAccessWrite (be : BitVec 4) (_v : Word) (s : State) : State :=
  ifFull be (fun s => { s with host.badAccesses := 0 }) s

/-- A write to a defined word, by its attribute (R183, R186). -/
def writeDefined (w : WindowWord) (be : BitVec 4) (v : Word) (s : State) : State :=
  match w with
  | .command => ifFull be (engineWrite v) s
  | .staging i => ifFull be (writeStaging i v) s
  | .timing p => timingSetWrite p be v s
  | .geometry => geometryWrite be v s
  | .haltOnMiss => haltOnMissWrite be v s
  | .slot i => patternSlotWrite i be v s
  | .ignoreMask => laneIgnoreMaskWrite be v s
  | .tap k => tapWrite k be v s
  | .recordIndex => recordIndexWrite be v s
  | .failLimit => failLimitWrite be v s
  | .flags => flagsWrite be v s
  | .enables => enablesWrite be v s
  | .badAccess => badAccessWrite be v s
  | .family => countBadAccess s
  | .revision => countBadAccess s
  | .result => countBadAccess s
  | .statusRun => countBadAccess s
  | .statusQueue => countBadAccess s
  | .statusCounts => countBadAccess s
  | .statusEvents => countBadAccess s
  | .statusAborts => countBadAccess s
  | .bankStates _ => countBadAccess s
  | .rankStates => countBadAccess s
  | .statistic _ => countBadAccess s
  | .refreshStatus => countBadAccess s
  | .refreshMissed => countBadAccess s
  | .completion _ => countBadAccess s
  | .failCount => countBadAccess s
  | .failOverflow => countBadAccess s
  | .viewState => countBadAccess s
  | .failRecord _ => countBadAccess s
  | .sweepEntry _ => countBadAccess s
  | .sweepStatus => countBadAccess s

/-- One local-bus access, taken as one event (R183). -/
def busAccess (a : BusAccess) (s : State) : State :=
  match a.word with
  | some w => if a.isWrite then writeDefined w a.be a.data s else readDefined w a.be s
  | none => if a.isWrite then countBadAccess s else badRead s

/-! ## The commands -/

/-- BAD_ACCESS_COUNTER_WRITE (R184). -/
def execBadAccessCounterWrite (be : BitVec 4) (value : Word) (s : State) :
    Host.Outcome State Fault Refusal :=
  .next (badAccessWrite be value s)

/-- COMPLETION_PORT_READ (R167). -/
def execCompletionPortRead (word : Quad) (be : BitVec 4) (s : State) : Host.Outcome State Fault Refusal :=
  .next (readDefined (.completion word) be s)

/-- FAIL_RECORD_READ (R149). -/
def execFailRecordRead (word : Fin 5) (be : BitVec 4) (s : State) : Host.Outcome State Fault Refusal :=
  .next (readDefined (.failRecord word) be s)

/-- REGISTER_WRITE (R183, log 8). -/
def execRegisterWrite (access : BusAccess) (s : State) : Host.Outcome State Fault Refusal :=
  .next (busAccess access s)

end Sys2Proof.Machine
end

