-- ==== Sys2Proof/Machine/Dispatch.lean ====
section
/-! DEFINITION. The dispatch of each command to its meaning. -/

namespace Sys2Proof.Machine

/-- The effect of a command on everything but the queue: one arm per row of spec/opcode_table.json. -/
def exec (i : Instr) (s : State) : Host.Outcome State Fault Refusal :=
  match i with
  | .powerOnReset => Sys2Proof.Machine.execPowerOnReset s
  | .push => Sys2Proof.Machine.execPush s
  | .start => Sys2Proof.Machine.execStart s
  | .stop => Sys2Proof.Machine.execStop s
  | .resume => Sys2Proof.Machine.execResume s
  | .abort => Sys2Proof.Machine.execAbort s
  | .softReset => Sys2Proof.Machine.execSoftReset s
  | .popCompletion => Sys2Proof.Machine.execPopCompletion s
  | .failReleaseOldest => Sys2Proof.Machine.execFailReleaseOldest s
  | .failClear => Sys2Proof.Machine.execFailClear s
  | .refreshEnable mask => Sys2Proof.Machine.execRefreshEnable mask s
  | .refreshDisable mask => Sys2Proof.Machine.execRefreshDisable mask s
  | .timingSetWrite p be value => Sys2Proof.Machine.execTimingSetWrite p be value s
  | .geometryWrite be value => Sys2Proof.Machine.execGeometryWrite be value s
  | .patternSlotWrite slot be value => Sys2Proof.Machine.execPatternSlotWrite slot be value s
  | .laneIgnoreMaskWrite be value => Sys2Proof.Machine.execLaneIgnoreMaskWrite be value s
  | .tapWrite lane be value => Sys2Proof.Machine.execTapWrite lane be value s
  | .recordIndexWrite be value => Sys2Proof.Machine.execRecordIndexWrite be value s
  | .failLimitWrite be value => Sys2Proof.Machine.execFailLimitWrite be value s
  | .haltOnRefreshMissWrite be value => Sys2Proof.Machine.execHaltOnRefreshMissWrite be value s
  | .interruptFlagsWrite be value => Sys2Proof.Machine.execInterruptFlagsWrite be value s
  | .interruptEnablesWrite be value => Sys2Proof.Machine.execInterruptEnablesWrite be value s
  | .badAccessCounterWrite be value => Sys2Proof.Machine.execBadAccessCounterWrite be value s
  | .completionPortRead word be => Sys2Proof.Machine.execCompletionPortRead word be s
  | .failRecordRead word be => Sys2Proof.Machine.execFailRecordRead word be s
  | .registerWrite access => Sys2Proof.Machine.execRegisterWrite access s
  | .targetAlert => Sys2Proof.Machine.execTargetAlert s
  | .commandOpportunity => Sys2Proof.Machine.execCommandOpportunity s
  | .accessReadyExpiry bank => Sys2Proof.Machine.execAccessReadyExpiry bank s
  | .restoreExpiry bank => Sys2Proof.Machine.execRestoreExpiry bank s
  | .writeRecoveryExpiry bank => Sys2Proof.Machine.execWriteRecoveryExpiry bank s
  | .readCloseWaitExpiry bank => Sys2Proof.Machine.execReadCloseWaitExpiry bank s
  | .closeTimeExpiry bank => Sys2Proof.Machine.execCloseTimeExpiry bank s
  | .refreshTimeExpiry rank => Sys2Proof.Machine.execRefreshTimeExpiry rank s
  | .holdExpiry hold => Sys2Proof.Machine.execHoldExpiry hold s
  | .pageHoldExpiry bank => Sys2Proof.Machine.execPageHoldExpiry bank s
  | .intervalExpiry rank => Sys2Proof.Machine.execIntervalExpiry rank s
  | .pauseExpiry => Sys2Proof.Machine.execPauseExpiry s
  | .deadlineExpiry => Sys2Proof.Machine.execDeadlineExpiry s
  | .writeDataPhaseEnd => Sys2Proof.Machine.execWriteDataPhaseEnd s
  | .dataArrival => Sys2Proof.Machine.execDataArrival s
  | .failOffer => Sys2Proof.Machine.execFailOffer s
  | .haltRequest cause => Sys2Proof.Machine.execHaltRequest cause s
  | .fenceTake => Sys2Proof.Machine.execFenceTake s
  | .accessPlacement => Sys2Proof.Machine.execAccessPlacement s
  | .sweepTapSet => Sys2Proof.Machine.execSweepTapSet s
  | .sweepReadPlacement => Sys2Proof.Machine.execSweepReadPlacement s
  | .sweepEnd => Sys2Proof.Machine.execSweepEnd s
  | .retirement => Sys2Proof.Machine.execRetirement s
  | .drainEnd => Sys2Proof.Machine.execDrainEnd s
  | .abortEnd => Sys2Proof.Machine.execAbortEnd s
  | .settlePeriodEnd => Sys2Proof.Machine.execSettlePeriodEnd s
  | .strobeEdge lane position samples => Sys2Proof.Machine.execStrobeEdge lane position samples s
  | .alertInactiveSample => Sys2Proof.Machine.execAlertInactiveSample s

end Sys2Proof.Machine
end

