-- ==== Sys2Proof/Safety.lean ====
section
/-! DEFINITION. The laws of the state that every step keeps. -/

namespace Sys2Proof.Machine

/-- Every collection within its capacity (R15, R38, R91, R125, R135, R140, R167), the counts of R41, R43,
R53, R60, R99 and R100 within their ranges. -/
def WithinCapacity (s : State) : Prop :=
  s.intake.queue.length ≤ 32 ∧
  s.window.length ≤ 16 ∧
  s.reads.inFlight.length ≤ 8 ∧
  s.reads.writePhases.length ≤ 17 ∧
  s.arbiter.pendingClose.length ≤ 32 ∧
  s.failLog.records.length ≤ 32 ∧
  s.run.completions.length ≤ 16 ∧
  (∀ r, (rankAt s r).history.length ≤ 4 ∧ (∀ age ∈ (rankAt s r).history, age ≤ 255) ∧
    (rankAt s r).debt ≤ 8) ∧
  (∀ b, (bankAt s b).idle ≤ 4095 ∧ (bankAt s b).writePhases ≤ 17) ∧
  (∀ a ∈ s.window, a.bypass ≤ 63) ∧
  s.arbiter.lastRung ≤ 9

/-- No two fail records share a key (R141). -/
def KeysDistinct (s : State) : Prop := (s.failLog.records.map FailRecord.key).Nodup

/-- The seqs held form an unbroken run that ends one before the next-seq counter (R15). -/
def SeqsConsecutive (s : State) : Prop :=
  ∀ i (h : i < s.intake.queue.length),
    s.intake.queue[i].seq + BitVec.ofNat 8 (s.intake.queue.length - i) = s.intake.nextSeq

/-- In IDLE the lists are empty, the expander is IDLE and every held descriptor is WAITING; in ABORTING
the window is empty (R152, R162). -/
def QuietWhenIdle (s : State) : Prop :=
  (s.run.state = .idle →
    s.window = [] ∧ s.reads.inFlight = [] ∧ s.reads.writePhases = [] ∧ s.expander = .idle ∧
      ∀ d ∈ s.intake.queue, d.life = .waiting) ∧
  (s.run.state = .aborting → s.window = [])

/-- READs issued is reads completed plus reads lost plus the entries in flight, while none of the three
counts has reached its ceiling (R138). -/
def ReadsBalanced (s : State) : Prop :=
  s.run.stats.readsIssued.toNat < 2 ^ 32 - 1 → s.run.stats.readsCompleted.toNat < 2 ^ 32 - 1 →
    s.run.stats.readsLost.toNat < 2 ^ 32 - 1 →
      s.run.stats.readsIssued.toNat =
        s.run.stats.readsCompleted.toNat + s.run.stats.readsLost.toNat + s.reads.inFlight.length

/-- The pending close order holds exactly the banks whose close pending is yes, none twice, and each of
them is OPEN (R91, R52). -/
def PendingCloseAgrees (s : State) : Prop :=
  s.arbiter.pendingClose.Nodup ∧
  (∀ b, b ∈ s.arbiter.pendingClose ↔ (bankAt s b).closePending = true) ∧
  ∀ b, (bankAt s b).closePending = true → ∃ row, (bankAt s b).state = .opened row

/-- A rank's banks are all UNKNOWN when its recovery needed is yes, and none is when it is no (R58). -/
def RecoveryAgrees (s : State) : Prop :=
  ∀ b : BankAddr, (rankAt s b.rank).recoveryNeeded = true ↔ (bankAt s b).state = .unknown

/-- Every working value is in its range and meets its constraint (R65, R68, R69). -/
def WorkingSetValid (s : State) : Prop :=
  ∀ p, inRange s.timing.working p = true ∧ meetsConstraint s.timing.working p = true

/-- Write data phases end at least 4 tclk apart, each within 67 tclk and none after the data lane hold
(R79, R135). -/
def WritePhasesSpaced (s : State) : Prop :=
  s.reads.writePhases.Pairwise (fun p q => p.remaining + 4 ≤ q.remaining) ∧
  ∀ p ∈ s.reads.writePhases, p.remaining ≤ 67 ∧ p.remaining ≤ (s.holds.get .dataLane).remaining

/-- A bank's write phases outstanding are its entries in the write phase list (R50, R135). -/
def WritePhasesCounted (s : State) : Prop :=
  ∀ b, (bankAt s b).writePhases = s.reads.writePhases.countP fun p => p.addr.bank = b

end Sys2Proof.Machine
end

