-- ==== Sys2Proof/Certificates/Slice0/Obligations.lean ====
section
/-! DEFINITION. The statements for the provers; OBLIGATIONS.json lists them. -/

open Sys2Proof Sys2Proof.Machine

/-! ## The queue of commands and the step -/

/-- A step runs the command at the front of the queue on the state that holds the queue's rest; on an
empty queue the part idles (the model's choice, log 4). -/
def Obligations.StepRunsFrontCommand : Prop :=
  ∀ (c : Instr) (rest : List Instr) (s : State),
    step (s.withPending (c :: rest)) = exec c (s.withPending rest) ∧
      step (s.withPending []) = .next (s.withPending [])

/-- Every command answers a next state in every state, and leaves the queue of waiting commands alone.
The model's choices: that an event's command answers also where its event is not due or not enabled
(log 1) and in states that no run reaches (log 17), and that the queue is left alone (log 20). -/
def Obligations.EveryCommandCompletes : Prop :=
  ∀ (c : Instr) (s : State), ∃ t, exec c s = .next t ∧ t.pending = s.pending

/-! ## Laws of the state that every step keeps -/

/-- Right after power-on reset every law of the state holds. -/
def Obligations.LawsHoldAtReset : Prop :=
  WithinCapacity State.reset ∧ KeysDistinct State.reset ∧ SeqsConsecutive State.reset ∧
    QuietWhenIdle State.reset ∧ ReadsBalanced State.reset ∧ PendingCloseAgrees State.reset ∧
    RecoveryAgrees State.reset ∧ WorkingSetValid State.reset ∧ WritePhasesCounted State.reset ∧
    WritePhasesSpaced State.reset

/-- The premises beside the capacities are laws that every step keeps by statements of their own; they bound
the write phases by 17 and the pending close order by 32. -/
def Obligations.StepKeepsCapacities : Prop :=
  ∀ s t : State, WithinCapacity s → WorkingSetValid s → WritePhasesSpaced s → WritePhasesCounted s →
    PendingCloseAgrees s → step s = .next t → WithinCapacity t

def Obligations.StepKeepsKeysAndSeqs : Prop :=
  (∀ s t : State, KeysDistinct s → step s = .next t → KeysDistinct t) ∧
  ∀ s t : State, SeqsConsecutive s → step s = .next t → SeqsConsecutive t

def Obligations.StepKeepsIdleQuiet : Prop :=
  ∀ s t : State, QuietWhenIdle s → step s = .next t → QuietWhenIdle t

def Obligations.StepKeepsReadsBalanced : Prop :=
  ∀ s t : State, QuietWhenIdle s → ReadsBalanced s → step s = .next t → ReadsBalanced t

def Obligations.StepKeepsPendingCloseOrder : Prop :=
  ∀ s t : State, PendingCloseAgrees s → step s = .next t → PendingCloseAgrees t

def Obligations.StepKeepsRecoveryNeeded : Prop :=
  ∀ s t : State, RecoveryAgrees s → step s = .next t → RecoveryAgrees t

def Obligations.StepKeepsWorkingSetValid : Prop :=
  ∀ s t : State, WorkingSetValid s → step s = .next t → WorkingSetValid t

/-- The counts of the banks follow the write phase list, and the phases stay spaced on the data lanes. -/
def Obligations.StepKeepsWritePhasesCounted : Prop :=
  (∀ s t : State, WritePhasesCounted s → step s = .next t → WritePhasesCounted t) ∧
  ∀ s t : State, WorkingSetValid s → WritePhasesSpaced s → step s = .next t → WritePhasesSpaced t

/-- A step that changes a receive delay tap leaves the in-flight read list empty. -/
def Obligations.TapsChangeOnlyWithListEmpty : Prop :=
  ∀ s t : State, QuietWhenIdle s → step s = .next t → t.sweep.taps ≠ s.sweep.taps →
    t.reads.inFlight = []

/-! ## The register window's encodings -/

/-- Every word of the window is found at its offset, and at every word-aligned offset of the 2 KiB window
the word found, if any, is the one with that offset. The offsets are those of R186. -/
def Obligations.WindowOffsetsDecode : Prop :=
  (∀ w : WindowWord, wordAt w.offset = some w ∧ w.offset % 4 = 0 ∧ w.offset < 2048) ∧
  (∀ (la : BitVec 9) (w : WindowWord), wordAt (4 * la.toNat) = some w → w.offset = 4 * la.toNat) ∧
  ∀ w : WindowWord, w.offset =
    match w with
    | .family => 0x000
    | .revision => 0x004
    | .command => 0x010
    | .result => 0x014
    | .staging i => 0x020 + 4 * i.val
    | .statusRun => 0x040
    | .statusQueue => 0x044
    | .statusCounts => 0x048
    | .statusEvents => 0x04C
    | .statusAborts => 0x050
    | .bankStates k => 0x060 + 4 * k.num
    | .rankStates => 0x070
    | .statistic i => 0x080 + 4 * i.val
    | .timing p => 0x0C0 + 4 * (p.index - 1)
    | .geometry => 0x110
    | .refreshStatus => 0x120
    | .refreshMissed => 0x124
    | .haltOnMiss => 0x128
    | .slot i => 0x140 + 4 * i.val
    | .ignoreMask => 0x160
    | .tap k => 0x170 + 4 * k.num
    | .completion k => 0x180 + 4 * k.num
    | .failCount => 0x1A0
    | .failOverflow => 0x1A4
    | .recordIndex => 0x1A8
    | .viewState => 0x1AC
    | .failLimit => 0x1B0
    | .failRecord i => 0x1C0 + 4 * i.val
    | .sweepEntry v => 0x200 + 4 * v.toNat
    | .sweepStatus => 0x280
    | .flags => 0x2C0
    | .enables => 0x2C4
    | .badAccess => 0x2D0

/-- PUSH decodes the staging words that spell a work to that work, every field at every value its bits
hold. Whatever the staging words hold, each field of the work they decode to comes from its bits, and a
coded field's code names its value (R188). The byte lane and taps of a SWEEP are claimed where they fit
their ranges; sweepFits checks them before. -/
def Obligations.StagingWordsDecode : Prop :=
  (∀ (s : State) (w : Work), w.spellable = true →
    stagedWork { s with host.staging := w.stagingWords } = some w) ∧
  ∀ (s : State) (w : Work), stagedWork s = some w →
    let field (i : Fin 8) (lo len : Nat) : Nat := (s.host.staging[i].extractLsb' lo len).toNat
    let yes (i : Fin 8) (n : Nat) : Bool := s.host.staging[i].getLsbD n
    let inBank (b : BankAddr) : Prop :=
      b.rank.num = field 0 16 1 ∧ b.bankSet.num = field 0 17 2 ∧ b.bank.num = field 0 19 2
    let withPattern (p : PatternFields) : Prop :=
      p.slot.val = field 0 8 3 ∧ p.invert = yes 0 15 ∧ field 0 12 3 =
        match p.format with
        | .uniform => 0
        | .held => 1
        | .rotated => 2
        | .address => 3
    match w with
    | .region d =>
      (field 0 0 3 = match d.kind with | .write => 1 | .read => 2 | .checkWrite => 3) ∧
        d.fence = yes 0 3 ∧ inBank d.bank ∧ d.rowFirst = field 1 0 17 ∧ d.rowCount = field 2 0 18 ∧
        d.colFirst = field 3 0 7 ∧ d.colCount = field 3 8 8 ∧ withPattern d.pattern ∧
        (field 0 4 2 = match d.walk with | .rowMajor => 0 | .columnMajor => 1) ∧
        field 0 6 2 = match d.close with | .keep => 0 | .closeRowEnd => 1 | .closeEach => 2
    | .pause length hold =>
      field 0 0 3 = 4 ∧ length.toNat = field 4 0 16 ∧ hold = ⟨yes 4 16, yes 4 17⟩
    | .marker code => field 0 0 3 = 5 ∧ code.toNat = field 5 0 8
    | .sweep f =>
      field 0 0 3 = 6 ∧ inBank f.addr.bank ∧ f.addr.row = field 1 0 17 ∧ f.addr.col = field 3 0 7 ∧
        withPattern f.pattern ∧ (field 6 0 3 ≤ 3 → f.lane.num = field 6 0 3) ∧
        (field 6 8 6 ≤ 31 → f.tapFirst.toNat = field 6 8 6) ∧
        (field 6 16 6 ≤ 31 → f.tapLast.toNat = field 6 16 6) ∧ f.readsPerTap = field 7 0 8 ∧
        f.applyWindow = yes 7 8

/-- A local-bus access is the row of its own that the table gives it, and REGISTER_WRITE otherwise. That
REGISTER_WRITE carries accesses that have a row of their own, reads included, is the model's choice
(log 8). Then the row of its own of each access: a 32-bit write of an engine command (R185), the writes of
the words that have one, and the reads of the two ports. -/
def Obligations.BusAccessIsItsRow : Prop :=
  (∀ (a : BusAccess) (s : State), exec (.registerWrite a) s = exec (commandOf a) s) ∧
  ∀ a : BusAccess,
    let mask : BitVec 2 := a.data.extractLsb' 8 2
    (a.isWrite = true → a.word = some .command → a.be = 0xF#4 → commandOf a =
      match a.data.toNat % 16 with
      | 1 => .push
      | 2 => .start
      | 3 => .stop
      | 4 => .resume
      | 5 => .abort
      | 6 => .softReset
      | 7 => .popCompletion
      | 8 => .failReleaseOldest
      | 9 => .failClear
      | 10 => .refreshEnable mask
      | 11 => .refreshDisable mask
      | _ => .registerWrite a) ∧
    (a.isWrite = true → ∀ w, a.word = some w → w ≠ .command → commandOf a =
      match w with
      | .timing p => .timingSetWrite p a.be a.data
      | .geometry => .geometryWrite a.be a.data
      | .slot i => .patternSlotWrite i a.be a.data
      | .ignoreMask => .laneIgnoreMaskWrite a.be a.data
      | .tap k => .tapWrite k a.be a.data
      | .recordIndex => .recordIndexWrite a.be a.data
      | .failLimit => .failLimitWrite a.be a.data
      | .haltOnMiss => .haltOnRefreshMissWrite a.be a.data
      | .flags => .interruptFlagsWrite a.be a.data
      | .enables => .interruptEnablesWrite a.be a.data
      | .badAccess => .badAccessCounterWrite a.be a.data
      | _ => .registerWrite a) ∧
    (a.isWrite = false → ∀ w, a.word = some w → commandOf a =
      match w with
      | .completion k => .completionPortRead k a.be
      | .failRecord i => .failRecordRead i a.be
      | _ => .registerWrite a) ∧
    ((a.word = none ∨ (a.isWrite = true ∧ a.word = some .command ∧ a.be ≠ 0xF#4)) →
      commandOf a = .registerWrite a)

/-- The identification and status words hold their fields at the bits of R187. First the codes of those
fields (R186), the seq that is in hand in each expander state, and the bank numbers. -/
def Obligations.StatusWordsHoldTheirFields : Prop :=
  (RunState.idle.code = 0 ∧ RunState.running.code = 1 ∧ RunState.draining.code = 2 ∧
    RunState.halted.code = 3 ∧ RunState.aborting.code = 4) ∧
  (haltCode none = 0 ∧ haltCode (some .failLimit) = 1 ∧ haltCode (some .targetAlert) = 2 ∧
    haltCode (some .readTimeout) = 3 ∧ haltCode (some .strayData) = 4 ∧
    haltCode (some .refreshMissed) = 5) ∧
  (Expander.idle.code = 0 ∧
    (∀ q row col, (Expander.expanding q row col).code = 1 ∧ (Expander.expanding q row col).seqInHand = q) ∧
    (∀ q, (Expander.fenceWait q).code = 2 ∧ (Expander.fenceWait q).seqInHand = q) ∧
    (∀ q n, (Expander.pausing q n).code = 3 ∧ (Expander.pausing q n).seqInHand = q) ∧
    ∀ w, (Expander.sweeping .settle w).code = 4 ∧ (Expander.sweeping .reads w).code = 5 ∧
      (Expander.sweeping .collect w).code = 6 ∧
      ∀ step, (Expander.sweeping step w).seqInHand = w.seq) ∧
  (BankState.unknown.code = 0 ∧ BankState.closed.code = 1 ∧ (∀ row, (BankState.opening row).code = 2) ∧
    (∀ row, (BankState.opened row).code = 3) ∧ BankState.closing.code = 4) ∧
  (RankState.ready.code = 0 ∧ RankState.refreshing.code = 1) ∧
  (IntervalTimer.stopped.code = 0 ∧ (∀ n, (IntervalTimer.running n).code = 1) ∧
    ∀ n, (IntervalTimer.held n).code = 2) ∧
  ((Rank.r0.num = 0 ∧ Rank.r1.num = 1) ∧
    (Quad.q0.num = 0 ∧ Quad.q1.num = 1 ∧ Quad.q2.num = 2 ∧ Quad.q3.num = 3) ∧
    (∀ k : Quad, .ofNum k.num = k) ∧
    (∀ b, bankNumber b = 16 * b.rank.num + 4 * b.bankSet.num + b.bank.num) ∧
    allBanks.map bankNumber = List.range 32) ∧
  ∀ s : State, WithinCapacity s →
    ((readWord s .revision).extractLsb' 0 8 = 1#8) ∧
    (((readWord s .statusRun).extractLsb' 0 3).toNat = s.run.state.code ∧
      ((readWord s .statusRun).extractLsb' 4 3).toNat = haltCode s.run.haltCause ∧
      (readWord s .statusRun).getLsbD 7 = s.run.drainRequested ∧
      (readWord s .statusRun).getLsbD 8 = s.run.settle.isSome ∧
      ((readWord s .statusRun).extractLsb' 12 3).toNat = s.expander.code ∧
      (readWord s .statusRun).extractLsb' 16 8 = s.expander.seqInHand ∧
      (s.expander = .idle → (readWord s .statusRun).extractLsb' 16 8 = 0#8)) ∧
    (((readWord s .statusQueue).extractLsb' 0 6).toNat = s.intake.queue.length ∧
      (∀ d rest, s.intake.queue = d :: rest → (readWord s .statusQueue).extractLsb' 8 8 = d.seq) ∧
      (s.intake.queue = [] → (readWord s .statusQueue).extractLsb' 8 8 = 0#8) ∧
      (readWord s .statusQueue).extractLsb' 16 8 = s.intake.nextSeq) ∧
    (((readWord s .statusCounts).extractLsb' 0 5).toNat = s.window.length ∧
      ((readWord s .statusCounts).extractLsb' 8 4).toNat = s.reads.inFlight.length ∧
      ((readWord s .statusCounts).extractLsb' 12 5).toNat = s.reads.writePhases.length ∧
      ((readWord s .statusCounts).extractLsb' 20 5).toNat = s.run.completions.length ∧
      ((readWord s .statusCounts).extractLsb' 26 5).toNat =
        s.window.countP fun a => decide (s.timing.working.starveLimit.toNat ≤ a.bypass)) ∧
    (((readWord s .statusEvents).extractLsb' 0 4).toNat = s.arbiter.lastRung ∧
      (readWord s .statusEvents).extractLsb' 8 8 = s.reads.timeouts ∧
      (readWord s .statusEvents).extractLsb' 16 8 = s.reads.strays ∧
      (readWord s .statusEvents).extractLsb' 24 8 = s.run.alerts) ∧
    ((readWord s .statusAborts).extractLsb' 0 8 = s.run.abortDiscards) ∧
    (∀ b : BankAddr,
      ((readWord s (.bankStates (.ofNum (bankNumber b / 8)))).extractLsb' (4 * (bankNumber b % 8)) 4).toNat =
        (bankAt s b).state.code) ∧
    (((readWord s .rankStates).extractLsb' 0 1).toNat = (rankAt s .r0).state.code ∧
      (readWord s .rankStates).getLsbD 1 = (rankAt s .r0).recoveryNeeded ∧
      ((readWord s .rankStates).extractLsb' 8 1).toNat = (rankAt s .r1).state.code ∧
      (readWord s .rankStates).getLsbD 9 = (rankAt s .r1).recoveryNeeded) ∧
    ((readWord s .refreshStatus).getLsbD 0 = s.refresh.enable.r0 ∧
      ((readWord s .refreshStatus).extractLsb' 1 2).toNat = (rankAt s .r0).interval.code ∧
      ((readWord s .refreshStatus).extractLsb' 4 4).toNat = (rankAt s .r0).debt ∧
      (readWord s .refreshStatus).getLsbD 8 = s.refresh.enable.r1 ∧
      ((readWord s .refreshStatus).extractLsb' 9 2).toNat = (rankAt s .r1).interval.code ∧
      ((readWord s .refreshStatus).extractLsb' 12 4).toNat = (rankAt s .r1).debt) ∧
    ((readWord s .refreshMissed).extractLsb' 0 8 = s.refresh.missed) ∧
    (((readWord s .failCount).extractLsb' 0 6).toNat = s.failLog.records.length) ∧
    ((readWord s .failOverflow).extractLsb' 0 16 = s.failLog.overflow) ∧
    (∀ step w, s.expander = .sweeping step w →
      (readWord s .sweepStatus).getLsbD 0 = true ∧
      ((readWord s .sweepStatus).extractLsb' 1 2).toNat = w.fields.lane.num ∧
      (readWord s .sweepStatus).extractLsb' 8 5 = w.tapUnderTest ∧
      (readWord s .sweepStatus).extractLsb' 16 5 = w.originalTap ∧
      (readWord s .sweepStatus).extractLsb' 24 8 = w.seq) ∧
    ((∀ step w, s.expander ≠ .sweeping step w) → readWord s .sweepStatus = 0#32) ∧
    ((readWord s .badAccess).extractLsb' 0 8 = s.host.badAccesses)

/-! ## Resets -/

/-- POWER_ON_RESET places every piece of state at its power-on value: the values the spec gives (the
model's own for the rest of `State.reset`, logs 8 and 15). That the waiting commands stay is log 20. -/
def Obligations.PowerOnResetValues : Prop :=
  (∀ s : State, exec .powerOnReset s = .next { State.reset with pending := s.pending }) ∧
  let s := State.reset
  (∀ i : Fin 8, s.host.staging[i] = 0#32) ∧
    s.host.commandCode = 0 ∧ s.host.commandMask = 0 ∧ s.host.resultCode.code = 0 ∧
    s.host.resultDetail = 0 ∧ s.host.badAccesses = 0 ∧
    s.timing.stored = ⟨14, 32, 14, 6, 4, 24, 6, 4, 8, 3, 8, 2, 16, 12, 16, 64, 7800, 350, 0, 16⟩ ∧
    s.timing.working = s.timing.stored ∧ geometryWord s.timing.geometry = 0x00800F01#32 ∧
    s.intake.queue = [] ∧ s.intake.nextSeq = 0 ∧ s.expander = .idle ∧
    s.refreshHold = ⟨false, false⟩ ∧ s.window = [] ∧
    (∀ b, bankAt s b = ⟨.unknown, .stopped, .stopped, 0, .stopped, .stopped, false, 0, .stopped⟩) ∧
    (∀ r, rankAt s r = ⟨[], .ready, .stopped, true, 0, .stopped⟩) ∧
    (∀ h, holdExpired s h = true) ∧ s.arbiter.pendingClose = [] ∧ s.arbiter.lastRung = 0 ∧
    s.refresh.enable = ⟨false, false⟩ ∧ s.refresh.missed = 0 ∧ s.refresh.haltOnMiss = false ∧
    (∀ i : Fin 8, s.pattern.slots[i] = 0#8) ∧ s.pattern.ignoreMask = 0 ∧
    s.reads.inFlight = [] ∧ s.reads.writePhases = [] ∧ s.reads.timeouts = 0 ∧ s.reads.strays = 0 ∧
    s.reads.failLimit = 0 ∧
    s.failLog.records = [] ∧ s.failLog.overflow = 0 ∧ s.failLog.index = 0 ∧ s.failLog.view = .empty ∧
    s.sweep.taps = ⟨16, 16, 16, 16⟩ ∧ (∀ t, sweepEntryAt s t = ⟨false, 0⟩) ∧
    s.run.state = .idle ∧ s.run.haltCause = none ∧ s.run.drainRequested = false ∧
    s.run.stats = ⟨0, 0, 0, 0, 0, 0, 0, 0⟩ ∧ s.run.completions = [] ∧ s.run.flags = 0 ∧
    s.run.enables = 0 ∧ s.run.alerts = 0 ∧ s.run.abortDiscards = 0 ∧ s.run.settle = none ∧
    s.capture.alertWasActive = true

/-- The length of the settle period that a SOFT_RESET starts is the largest of its five kinds of term and,
for one taken in a settle period, of that period's full length; SETTLE_PERIOD_END ends a period that has run
its length (R164). That a second SOFT_RESET counts the terms of its own moment too is the model's choice
(log 24), and that a SETTLE_PERIOD_END that is not due, or finds no period in progress, changes nothing is
log 1. -/
def Obligations.SettlePeriodRunsItsLength : Prop :=
  ∀ s : State,
    (∀ p, s.run.settle = some p → p.length ≤ p.elapsed →
      exec .settlePeriodEnd s = .next { s with run.settle := none }) ∧
    ((∀ p, s.run.settle = some p → p.elapsed < p.length) → exec .settlePeriodEnd s = .next s) ∧
    let terms : List Nat :=
      [tclk s .refreshTime + tclk s .closeTime, tclk s .fourOpenWindow, tclk s .openToClose,
       tclk s .writeLatency + 4 + tclk s .writeRecovery] ++
      allBanks.map (fun b => (bankAt s b).restore.remaining) ++
      allBanks.map (fun b => (bankAt s b).writeRecovery.remaining) ++
      allBanks.map (fun b => (bankAt s b).closeTime.remaining) ++
      bothRanks.map (fun r => (rankAt s r).refreshTime.remaining) ++
      s.run.settle.toList.map Settle.length
    ∃ t length, exec .softReset s = .next t ∧ t.run.settle = some ⟨0, length⟩ ∧
      length ∈ terms ∧ ∀ n ∈ terms, n ≤ length

/-- SOFT_RESET, in every run state: what it sets, and what it keeps. The model's readings: what the engine
command register shows (log 7), the capture kept (log 11), the messages and the waiting commands (logs 6
and 20), what counts for the length a second one in a settle period starts (log 24). -/
def Obligations.SoftResetEmptiesAndKeeps : Prop :=
  ∀ s : State, ∃ t, exec .softReset s = .next t ∧
    t.host = { s.host with
      staging := .replicate 8 0, commandCode := 6, commandMask := 0
      resultCode := .accepted, resultDetail := 0 } ∧
    t.timing = s.timing ∧ t.intake = ⟨[], 0⟩ ∧ t.expander = .idle ∧ t.refreshHold = ⟨false, false⟩ ∧
    t.window = [] ∧
    (∀ b, bankAt t b = ⟨.unknown, .stopped, .stopped, 0, .stopped, .stopped, false, 0, .stopped⟩) ∧
    (∀ r, rankAt t r = ⟨[], .ready, .stopped, true, 0,
      if isPresent s r ∧ s.refresh.enable.get r then .running (tclk s .refreshInterval) else .stopped⟩) ∧
    (∀ h, holdExpired t h = true) ∧
    t.arbiter = { s.arbiter with pendingClose := [], lastRung := 0 } ∧
    t.refresh = { s.refresh with missed := 0 } ∧ t.pattern = s.pattern ∧
    t.reads = { s.reads with inFlight := [], writePhases := [], timeouts := 0, strays := 0 } ∧
    t.failLog = s.failLog ∧ t.sweep.table = s.sweep.table ∧
    ((∀ step w, s.expander ≠ .sweeping step w) → t.sweep.taps = s.sweep.taps) ∧
    (∀ step w, s.expander = .sweeping step w →
      ∀ k, t.sweep.taps.get k = if k = w.fields.lane then w.originalTap else s.sweep.taps.get k) ∧
    t.run = { s.run with
      state := .idle, haltCause := none, drainRequested := false
      stats := ⟨0, 0, 0, 0, 0, 0, 0, 0⟩, completions := [], flags := 0, alerts := 0, abortDiscards := 0
      settle := some ⟨0, settleLength s⟩ } ∧
    t.messages = s.messages ∧ t.capture = s.capture ∧ t.pending = s.pending

/-! ## PUSH and the expander's examination -/

/-- The six checks of PUSH in order; a refused PUSH changes only the engine command and result
registers (log 7). Then each check's condition: the codes that name nothing, for the kinds that carry the
field (R9), the pause length (R10), the address against the geometry as it is held (R11, R70), and the
SWEEP's fields at their full staged width (R12). -/
def Obligations.PushRefusesInOrder : Prop :=
  ∀ s : State,
    let refused (c : ResultCode) : Host.Outcome State Fault Refusal :=
      .next { s with
        host.commandCode := 1, host.commandMask := 0, host.resultCode := c, host.resultDetail := 0 }
    let field (i : Fin 8) (lo len : Nat) : Nat := (s.host.staging[i].extractLsb' lo len).toNat
    let kind := field 0 0 3
    let g := s.timing.geometry
    (s.run.state = .aborting → exec .push s = refused .engineBusy) ∧
    (s.run.state ≠ .aborting →
      (32 ≤ s.intake.queue.length → exec .push s = refused .queueFull) ∧
      (s.intake.queue.length < 32 →
        (stagedWork s = none → exec .push s = refused .badKind) ∧
        ∀ w, stagedWork s = some w →
          (pauseFits w = false → exec .push s = refused .badPause) ∧
          (pauseFits w = true →
            (addressFits g w = false → exec .push s = refused .badAddress) ∧
            (addressFits g w = true → sweepFits s w = false → exec .push s = refused .badSweep)))) ∧
    (stagedWork s = none ↔ kind = 0 ∨ kind = 7 ∨
      (kind ∈ [1, 2, 3] ∧ (2 ≤ field 0 4 2 ∨ field 0 6 2 = 3 ∨ 4 ≤ field 0 12 3)) ∨
      (kind = 6 ∧ 4 ≤ field 0 12 3)) ∧
    ((∀ length hold, pauseFits (.pause length hold) = true ↔ 1 ≤ length.toNat) ∧
      ∀ w, (∀ length hold, w ≠ .pause length hold) → pauseFits w = true) ∧
    ((∀ r, isPresent s r = true ↔ r = .r0 ∨ g.ranksPresent.toNat = 2) ∧
      (∀ d, addressFits g (.region d) = true ↔
        isPresent s d.bank.rank = true ∧ 1 ≤ d.rowCount ∧ d.rowCount ≤ 65536 ∧ 1 ≤ d.colCount ∧
          d.rowFirst + d.rowCount ≤ 2 ^ g.rowsCode.toNat ∧
          d.colFirst + d.colCount ≤ g.burstsPerRow.toNat) ∧
      (∀ f, addressFits g (.sweep f) = true ↔
        isPresent s f.addr.bank.rank = true ∧ f.addr.row < 2 ^ g.rowsCode.toNat ∧
          f.addr.col < g.burstsPerRow.toNat) ∧
      (∀ length hold, addressFits g (.pause length hold) = true) ∧
      ∀ code, addressFits g (.marker code) = true) ∧
    (∀ f, sweepFits s (.sweep f) = true ↔
      field 6 0 3 ≤ 3 ∧ field 6 16 6 ≤ 31 ∧ field 6 8 6 ≤ field 6 16 6 ∧ 1 ≤ field 7 0 8) ∧
    ∀ w, (∀ f, w ≠ .sweep f) → sweepFits s w = true

/-- An accepted PUSH appends a WAITING descriptor with the next seq and its accesses total by kind; an
expander that waits for a descriptor then examines it (R13, R23). That the engine command register shows
the PUSH is log 7. -/
def Obligations.PushAcceptedAppends : Prop :=
  (∀ r : Region, (r.kind = .write ∨ r.kind = .read) → (Work.region r).total = r.rowCount * r.colCount) ∧
  (∀ r : Region, r.kind = .checkWrite → (Work.region r).total = 2 * r.rowCount * r.colCount) ∧
  (∀ f : SweepFields, f.tapFirst ≤ f.tapLast →
    (Work.sweep f).total = (f.tapLast.toNat - f.tapFirst.toNat + 1) * f.readsPerTap) ∧
  (∀ n h, (Work.pause n h).total = 0) ∧ (∀ c, (Work.marker c).total = 0) ∧
  ∀ (s : State) (w : Work), s.run.state ≠ .aborting → s.intake.queue.length < 32 →
    stagedWork s = some w → pauseFits w = true → addressFits s.timing.geometry w = true →
    sweepFits s w = true →
    let t : State :=
      { s with
        host.commandCode := 1, host.commandMask := 0
        host.resultCode := .accepted, host.resultDetail := s.intake.nextSeq
        intake.queue := s.intake.queue ++
          [{ seq := s.intake.nextSeq, work := w, life := .waiting, total := w.total, issued := 0,
             completed := 0, miscompares := 0, lost := 0, cutShort := false,
             sweepResult := ⟨false, 0, 0, 0, 0⟩ }]
        intake.nextSeq := s.intake.nextSeq + 1 }
    exec .push s = .next (examine t) ∧
      (s.expander ≠ .idle ∨ s.run.state ≠ .running → exec .push s = .next t)

/-- What the expander does with the oldest WAITING descriptor `d` it examines. First what is fenced (R1),
and what the PAUSE hold and its release make of an interval timer (R107); that a RUNNING timer whose count
has run out to 0 with its expiry untaken is HELD with count 0, and is due again at the release, is the
model's choice (log 23). -/
def Obligations.ExamineTakesOldestWaiting : Prop :=
  ((∀ r, (Work.region r).fenced = r.fence) ∧ (∀ n h, (Work.pause n h).fenced = true) ∧
    (∀ c, (Work.marker c).fenced = false) ∧ (∀ f, (Work.sweep f).fenced = true) ∧
    (∀ w : Work, w.isSweep = true ↔ ∃ f, w = .sweep f) ∧
    ∀ w : Work, w.isMarker = true ↔ ∃ c, w = .marker c) ∧
  ((∀ n, (IntervalTimer.running n).hold = .held n) ∧ (∀ n, (IntervalTimer.held n).hold = .held n) ∧
    IntervalTimer.stopped.hold = .stopped ∧ (∀ n, (IntervalTimer.held n).release = .running n) ∧
    (∀ n, (IntervalTimer.running n).release = .running n) ∧
    IntervalTimer.stopped.release = .stopped) ∧
  (∀ s : State, s.expander ≠ .idle ∨ s.run.state ≠ .running ∨
    (∀ d ∈ s.intake.queue, d.life ≠ .waiting) → examine s = s) ∧
  ∀ (s : State) (ahead behind : List Descriptor) (d : Descriptor),
    s.expander = .idle → s.run.state = .running → s.intake.queue = ahead ++ d :: behind →
    (∀ a ∈ ahead, a.life ≠ .waiting ∧ a.seq ≠ d.seq) → (∀ a ∈ behind, a.seq ≠ d.seq) →
    d.life = .waiting →
    let free := ahead = [] ∨ (d.work.fenced = false ∧ ∀ a ∈ ahead, a.work.isSweep = false)
    let queued (l : Lifecycle) : List Descriptor := ahead ++ { d with life := l } :: behind
    (∀ c, d.work = .marker c → examine s = examine { s with intake.queue := queued .complete }) ∧
    (d.work.isMarker = false → ¬ free → examine s = { s with expander := .fenceWait d.seq }) ∧
    (∀ r, d.work = .region r → free →
      examine s = { s with
        intake.queue := queued .expanding, expander := .expanding d.seq r.rowFirst r.colFirst }) ∧
    (∀ n h, d.work = .pause n h → free →
      ∃ t, examine s = t ∧ t.intake = { s.intake with queue := queued .expanding } ∧
        t.expander = .pausing d.seq (n.toNat * 1024) ∧
        (∀ r, t.refreshHold.get r = (s.refreshHold.get r || (isPresent s r && h.get r))) ∧
        (∀ r, rankAt t r =
          if isPresent s r ∧ h.get r then
            { rankAt s r with interval := (rankAt s r).interval.hold } else rankAt s r) ∧
        t = { s with
          intake := t.intake, expander := t.expander, refreshHold := t.refreshHold, ranks := t.ranks }) ∧
    (∀ f, d.work = .sweep f → free →
      examine s = { s with
        intake.queue := queued .expanding
        sweep.table := .replicate 32 ⟨false, 0⟩
        expander := .sweeping .settle
          ⟨d.seq, f, s.sweep.taps.get f.lane, f.tapFirst, 0, 0, 0, false, false, false⟩ })

/-! ## The run commands -/

/-- START's answer in each case, and the item it reports: the first that fails of parameters 1–20 and then
21–23 (R153, R68, R164); the parameters with their indices, ranges and constraints (R65). What the
engine command register shows is log 7. -/
def Obligations.StartValidatesThenRuns : Prop :=
  ∀ s : State,
    (s.run.state ≠ .idle → exec .start s = .next { s with
      host.commandCode := 2, host.commandMask := 0
      host.resultCode := .wrongState, host.resultDetail := 0 }) ∧
    (s.run.state = .idle → ∀ i, startFault s = some i → exec .start s = .next { s with
      host.commandCode := 2, host.commandMask := 0
      host.resultCode := .configInvalid, host.resultDetail := .ofNat 8 i }) ∧
    (s.run.state = .idle → startFault s = none → exec .start s = .next (examine { s with
      host.commandCode := 2, host.commandMask := 0
      host.resultCode := .accepted, host.resultDetail := 0
      timing.working := s.timing.stored
      run.state := .running, run.stats := ⟨0, 0, 0, 0, 0, 0, 0, 0⟩
      run.haltCause := none, run.drainRequested := false
      run.settle := s.run.settle.map fun p =>
        { p with length := max p.length s.timing.stored.fourOpenWindow.toNat } })) ∧
    let bad (p : TimingParam) : Prop :=
      ¬ (inRange s.timing.stored p = true ∧ meetsConstraint s.timing.stored p = true)
    let g := s.timing.geometry
    let ranksBad := ¬ (g.ranksPresent.toNat = 1 ∨ g.ranksPresent.toNat = 2)
    let rowsBad := ¬ (12 ≤ g.rowsCode.toNat ∧ g.rowsCode.toNat ≤ 17)
    let burstsBad := ¬ (g.burstsPerRow.toNat ∈ [16, 32, 64, 128])
    (∀ p, startFault s = some p.index ↔ (bad p ∧ ∀ q : TimingParam, q.index < p.index → ¬ bad q)) ∧
    (startFault s = some 21 ↔ ((∀ p, ¬ bad p) ∧ ranksBad)) ∧
    (startFault s = some 22 ↔ ((∀ p, ¬ bad p) ∧ ¬ ranksBad ∧ rowsBad)) ∧
    (startFault s = some 23 ↔ ((∀ p, ¬ bad p) ∧ ¬ ranksBad ∧ ¬ rowsBad ∧ burstsBad)) ∧
    (startFault s = none ↔ ((∀ p, ¬ bad p) ∧ ¬ ranksBad ∧ ¬ rowsBad ∧ ¬ burstsBad)) ∧
    let t := s.timing.stored
    let v (p : TimingParam) : Nat := (t.get p).toNat
    let allowed (p : TimingParam) (lo hi : Nat) (met : Prop) : Prop :=
      bad p ↔ ¬ (lo ≤ v p ∧ v p ≤ hi ∧ met)
    let parameters : List TimingParam :=
      [.openToAccess, .openToClose, .closeTime, .openGapSameSet, .openGapOtherSet, .fourOpenWindow,
       .accessGapSameSet, .accessGapOtherSet, .writeToReadSameSet, .writeToReadOtherSet, .readToWrite,
       .rankSwitchGap, .readLatency, .writeLatency, .writeRecovery, .readTimeout, .refreshInterval,
       .refreshTime, .pageHold, .starveLimit]
    (∀ p, tclk s p = (s.timing.working.get p).toNat) ∧
    parameters.map TimingParam.index = (List.range 20).map (· + 1) ∧
    parameters.map t.get =
      [t.openToAccess, t.openToClose, t.closeTime, t.openGapSameSet, t.openGapOtherSet, t.fourOpenWindow,
       t.accessGapSameSet, t.accessGapOtherSet, t.writeToReadSameSet, t.writeToReadOtherSet,
       t.readToWrite, t.rankSwitchGap, t.readLatency, t.writeLatency, t.writeRecovery, t.readTimeout,
       t.refreshInterval, t.refreshTime, t.pageHold, t.starveLimit] ∧
    allowed .openToAccess 4 63 True ∧ allowed .openToClose 8 127 True ∧ allowed .closeTime 4 63 True ∧
    allowed .openGapSameSet 2 31 True ∧
    allowed .openGapOtherSet 2 31 (v .openGapOtherSet ≤ v .openGapSameSet) ∧
    allowed .fourOpenWindow 8 255 (v .openGapSameSet ≤ v .fourOpenWindow) ∧
    allowed .accessGapSameSet 4 15 True ∧
    allowed .accessGapOtherSet 4 15 (v .accessGapOtherSet ≤ v .accessGapSameSet) ∧
    allowed .writeToReadSameSet 2 31 True ∧
    allowed .writeToReadOtherSet 2 31 (v .writeToReadOtherSet ≤ v .writeToReadSameSet) ∧
    allowed .readToWrite 2 31 True ∧ allowed .rankSwitchGap 1 15 True ∧ allowed .readLatency 8 63 True ∧
    allowed .writeLatency 8 63 True ∧ allowed .writeRecovery 4 63 True ∧
    allowed .readTimeout 16 1023 (v .readLatency + 8 ≤ v .readTimeout) ∧
    allowed .refreshInterval 256 65535 True ∧ allowed .refreshTime 32 1023 True ∧
    allowed .pageHold 0 4095 True ∧ allowed .starveLimit 1 63 True

/-- STOP's answer and its effect on the expander in each state (R154, R25, R35, R179). What the engine
command register shows is log 7. -/
def Obligations.StopDrains : Prop :=
  ∀ s : State,
    let answered (c : ResultCode) : State :=
      { s with host.commandCode := 3, host.commandMask := 0, host.resultCode := c, host.resultDetail := 0 }
    let draining : State := { answered .accepted with run.state := .draining }
    (s.run.state = .idle ∨ s.run.state = .halted ∨ s.run.state = .aborting →
      exec .stop s = .next (answered .wrongState)) ∧
    (s.run.state = .draining → exec .stop s = .next (answered .accepted)) ∧
    (s.run.state = .running →
      (s.expander = .idle → exec .stop s = .next draining) ∧
      (∀ q, s.expander = .fenceWait q → exec .stop s = .next { draining with expander := .idle }) ∧
      (∀ q row col, s.expander = .expanding q row col → exec .stop s = .next draining) ∧
      (∀ q n, s.expander = .pausing q n → exec .stop s = .next { draining with
        expander := .idle
        intake.queue := s.intake.queue.map fun d =>
          if d.seq = q then { d with life := .complete, cutShort := true } else d
        refreshHold := ⟨false, false⟩
        ranks := .tabulate fun r =>
          if s.refreshHold.get r then
            { rankAt s r with interval := (rankAt s r).interval.release } else rankAt s r }) ∧
      ∀ step w, s.expander = .sweeping step w →
        exec .stop s = .next { draining with expander := .sweeping step { w with stopMark := true } })

/-- RESUME's answer and the run state it returns to (R156, R26). What the engine command register shows is
log 7. -/
def Obligations.ResumeReturns : Prop :=
  ∀ s : State,
    let answered (c : ResultCode) : State :=
      { s with host.commandCode := 4, host.commandMask := 0, host.resultCode := c, host.resultDetail := 0 }
    (s.run.state ≠ .halted → exec .resume s = .next (answered .wrongState)) ∧
    (s.run.state = .halted → s.run.drainRequested = true →
      exec .resume s = .next { answered .accepted with run.state := .draining }) ∧
    (s.run.state = .halted → s.run.drainRequested = false →
      exec .resume s = .next (examine (fenceTake { answered .accepted with run.state := .running })) ∧
      (s.expander ≠ .idle → (∀ q, s.expander ≠ .fenceWait q) →
        exec .resume s = .next { answered .accepted with run.state := .running }))

/-- ABORT in each run state (R155, R27, R42, R162, R181). What the engine command register shows is log 7. -/
def Obligations.AbortEmptiesOrWindsDown : Prop :=
  ∀ s : State,
    let answered (detail : Byte) : State :=
      { s with
        host.commandCode := 5, host.commandMask := 0
        host.resultCode := .accepted, host.resultDetail := detail }
    let aborting : State := { answered 0 with run.state := .aborting, window := [] }
    (s.run.state = .idle → exec .abort s = .next { answered (.ofNat 8 s.intake.queue.length) with
      intake.queue := []
      run.abortDiscards := .ofNat 8 (min (s.run.abortDiscards.toNat + s.intake.queue.length) 255) }) ∧
    (s.run.state = .aborting → exec .abort s = .next (answered 0)) ∧
    (s.run.state ≠ .idle → s.run.state ≠ .aborting →
      ((∀ step w, s.expander ≠ .sweeping step w) →
        exec .abort s = .next { aborting with expander := .idle }) ∧
      (∀ step w, s.expander = .sweeping step w → s.reads.inFlight ≠ [] →
        exec .abort s = .next { aborting with expander := .sweeping step { w with abortMark := true } }) ∧
      ∀ step w, s.expander = .sweeping step w → s.reads.inFlight = [] →
        exec .abort s = .next { aborting with
          expander := .idle
          sweep.taps := s.sweep.taps.modify w.fields.lane fun _ => w.originalTap })

/-- POP_COMPLETION removes the oldest record, or is refused EMPTY (R167). What the engine command register
shows is log 7. -/
def Obligations.PopRemovesOldest : Prop :=
  ∀ s : State,
    (∀ c rest, s.run.completions = c :: rest → exec .popCompletion s = .next { s with
      host.commandCode := 7, host.commandMask := 0
      host.resultCode := .accepted, host.resultDetail := .ofNat 8 rest.length
      run.completions := rest }) ∧
    (s.run.completions = [] → exec .popCompletion s = .next { s with
      host.commandCode := 7, host.commandMask := 0, host.resultCode := .empty, host.resultDetail := 0 })

/-! ## The fail log -/

/-- FAIL_RELEASE_OLDEST (R145): the oldest record moves to the record view, and the room it leaves is taken
by the next offer for a new key; an empty log refuses it. -/
def Obligations.FailReleaseMovesOldest : Prop :=
  ∀ s : State,
    ∃ t, exec .failReleaseOldest s = .next t ∧
      (∀ r rest, s.failLog.records = r :: rest →
        t.host.resultCode = .accepted ∧ t.host.resultDetail = .ofNat 8 rest.length ∧
        t.failLog = { s.failLog with records := rest, view := .released r } ∧
        ∀ o later, s.messages.offers = o :: later → (∀ x ∈ rest, x.key ≠ o.key) → rest.length < 32 →
          ∃ u, exec .failOffer t = .next u ∧
            u.failLog.records = rest ++ [⟨o.key, o.laneMask, o.beatMask, o.seq, o.seq, 1⟩]) ∧
      (s.failLog.records = [] →
        t.host.resultCode = .empty ∧ t.host.resultDetail = 0 ∧ t.failLog = s.failLog) ∧
      t = { s with
        failLog := t.failLog
        host.commandCode := t.host.commandCode, host.commandMask := t.host.commandMask
        host.resultCode := t.host.resultCode, host.resultDetail := t.host.resultDetail }

/-- FAIL_CLEAR, and the two orders of a clear and an offer (R147). -/
def Obligations.FailClearEmptiesLog : Prop :=
  ∀ s : State,
    ∃ cleared, exec .failClear s = .next cleared ∧
    cleared.host.resultCode = .accepted ∧ cleared.host.resultDetail = 0 ∧
    cleared = { s with
      failLog.records := [], failLog.overflow := 0
      host.commandCode := cleared.host.commandCode, host.commandMask := cleared.host.commandMask
      host.resultCode := .accepted, host.resultDetail := 0 } ∧
    ∀ o rest, s.messages.offers = o :: rest →
      (exec .failOffer cleared = .next { cleared with
        messages.offers := rest
        failLog.records := [⟨o.key, o.laneMask, o.beatMask, o.seq, o.seq, 1⟩] }) ∧
      ∃ t u, exec .failOffer s = .next t ∧ exec .failClear t = .next u ∧ u.failLog.records = [] ∧
        u.failLog.overflow = 0

/-- An offer whose key no record has is appended while the log holds fewer than 32 records (R142). -/
def Obligations.OfferAppendsNewRecord : Prop :=
  ∀ (s : State) (o : Offer) (rest : List Offer), s.messages.offers = o :: rest →
    (∀ r ∈ s.failLog.records, r.key ≠ o.key) → s.failLog.records.length < 32 →
    exec .failOffer s = .next { s with
      messages.offers := rest
      failLog.records := s.failLog.records ++
        [{ key := o.key, laneMask := o.laneMask, beatMask := o.beatMask, firstSeq := o.seq,
           lastSeq := o.seq, hits := 1 }] }

/-- An offer whose key is held merges into that record (R141); one whose key is not held is dropped by a
full log (R143). -/
def Obligations.OfferMergesOrIsDropped : Prop :=
  ∀ (s : State) (o : Offer) (rest : List Offer), s.messages.offers = o :: rest →
    (∀ ahead r behind, s.failLog.records = ahead ++ r :: behind → r.key = o.key →
      (∀ x ∈ ahead ++ behind, x.key ≠ o.key) →
      exec .failOffer s = .next { s with
        messages.offers := rest
        failLog.records := ahead ++
          { r with
            laneMask := r.laneMask ||| o.laneMask, beatMask := r.beatMask ||| o.beatMask
            hits := .ofNat 16 (min (r.hits.toNat + 1) 65535), lastSeq := o.seq } :: behind }) ∧
    ((∀ r ∈ s.failLog.records, r.key ≠ o.key) → 32 ≤ s.failLog.records.length →
      exec .failOffer s = .next { s with
        messages.offers := rest
        failLog.overflow := .ofNat 16 (min (s.failLog.overflow.toNat + 1) 65535)
        run.flags := s.run.flags ||| 0b010000#6 })

/-! ## Refresh upkeep -/

/-- REFRESH_ENABLE and REFRESH_DISABLE, each rank the mask names and each it does not (R69, R101, R102).
What the engine command register shows is log 7. -/
def Obligations.RefreshCommandsSetNamedRanks : Prop :=
  ∀ (s : State) (mask : BitVec 2),
    let interval := s.timing.stored.refreshInterval
    let time := s.timing.stored.refreshTime
    let answered (code : BitVec 4) (c : ResultCode) (detail : Byte) : State :=
      { s with
        host.commandCode := code, host.commandMask := mask
        host.resultCode := c, host.resultDetail := detail }
    let named (r : Rank) : Prop := mask.getLsbD r.num = true
    let intervalOk := 256 ≤ interval.toNat
    let timeOk := 32 ≤ time.toNat ∧ time.toNat ≤ 1023
    (¬ intervalOk → exec (.refreshEnable mask) s = .next (answered 10 .configInvalid 17)) ∧
    (intervalOk → ¬ timeOk → exec (.refreshEnable mask) s = .next (answered 10 .configInvalid 18)) ∧
    (intervalOk → timeOk → ∃ t, exec (.refreshEnable mask) s = .next t ∧
      t.timing.working = { s.timing.working with refreshInterval := interval, refreshTime := time } ∧
      (∀ r, (¬ named r → t.refresh.enable.get r = s.refresh.enable.get r ∧ rankAt t r = rankAt s r) ∧
        (named r → t.refresh.enable.get r = true ∧
          rankAt t r = { rankAt s r with
            debt := 0
            interval :=
              if ¬ isPresent s r then .stopped
              else if s.refreshHold.get r then .held interval.toNat
              else .running interval.toNat })) ∧
      t = { answered 10 .accepted 0 with
        timing.working := t.timing.working, refresh.enable := t.refresh.enable, ranks := t.ranks }) ∧
    ∃ t, exec (.refreshDisable mask) s = .next t ∧
      (∀ r, (¬ named r → t.refresh.enable.get r = s.refresh.enable.get r ∧ rankAt t r = rankAt s r) ∧
        (named r → t.refresh.enable.get r = false ∧
          rankAt t r = { rankAt s r with debt := 0, interval := .stopped })) ∧
      t = { answered 11 .accepted 0 with refresh.enable := t.refresh.enable, ranks := t.ranks }

/-- An interval expiry raises the debt, or at 8 is a missed refresh; a timer that is not RUNNING or has
not run out does not expire (R103, R104). That an expiry that is not due changes nothing is log 1. -/
def Obligations.IntervalExpiryRaisesDebt : Prop :=
  ∀ (s : State) (r : Rank),
    let full : IntervalTimer := .running (tclk s .refreshInterval)
    ((rankAt s r).interval ≠ .running 0 → exec (.intervalExpiry r) s = .next s) ∧
    ((rankAt s r).interval = .running 0 → (rankAt s r).debt ≤ 7 →
      exec (.intervalExpiry r) s = .next { s with
        ranks := s.ranks.modify r fun k => { k with interval := full, debt := k.debt + 1 } }) ∧
    ((rankAt s r).interval = .running 0 → (rankAt s r).debt = 8 →
      exec (.intervalExpiry r) s = .next { s with
        ranks := s.ranks.modify r fun k => { k with interval := full }
        refresh.missed := .ofNat 8 (min (s.refresh.missed.toNat + 1) 255)
        run.flags := s.run.flags ||| 0b100000#6
        messages.haltRequests :=
          if s.refresh.haltOnMiss then s.messages.haltRequests ++ [.refreshMissed]
          else s.messages.haltRequests })

/-! ## Register writes and reads -/

/-- 32-bit writes that are taken in every run state, and the interrupt line that follows the flags and
enables (R170). -/
def Obligations.AnyStateWritesAreTaken : Prop :=
  ∀ (s : State) (v : Word),
    (∀ i, exec (.patternSlotWrite i 0xF#4 v) s =
      .next { s with pattern.slots := s.pattern.slots.set i (v.setWidth 8) }) ∧
    exec (.laneIgnoreMaskWrite 0xF#4 v) s = .next { s with pattern.ignoreMask := v } ∧
    exec (.failLimitWrite 0xF#4 v) s = .next { s with reads.failLimit := v.setWidth 16 } ∧
    exec (.haltOnRefreshMissWrite 0xF#4 v) s = .next { s with refresh.haltOnMiss := v.getLsbD 0 } ∧
    exec (.interruptFlagsWrite 0xF#4 v) s =
      .next { s with run.flags := s.run.flags &&& ~~~ v.setWidth 6 } ∧
    exec (.interruptEnablesWrite 0xF#4 v) s = .next { s with run.enables := v.setWidth 6 } ∧
    exec (.badAccessCounterWrite 0xF#4 v) s = .next { s with host.badAccesses := 0 } ∧
    exec (.recordIndexWrite 0xF#4 v) s = .next { s with
      failLog.index := v.setWidth 8
      failLog.view :=
        if h : (v.setWidth 8).toNat < s.failLog.records.length
        then .byIndex s.failLog.records[(v.setWidth 8).toNat] else .empty } ∧
    (∀ (i : Fin 8) (a : BusAccess), a.word = some (.staging i) → a.isWrite = true → a.be = 0xF#4 →
      exec (.registerWrite a) s = .next { s with host.staging := s.host.staging.set i a.data }) ∧
    (interruptLine s = true ↔
      ∃ i : Fin 6, s.run.flags.getLsbD i.val = true ∧ s.run.enables.getLsbD i.val = true) ∧
    intN s = !interruptLine s

/-- Timing and tap writes are taken in IDLE and are bad accesses in every other run state; a geometry
write also needs an empty intake queue. A parameter write leaves the other parameters. -/
def Obligations.IdleOnlyWrites : Prop :=
  ∀ (s : State) (v : Word),
    let bad : Host.Outcome State Fault Refusal :=
      .next { s with host.badAccesses := .ofNat 8 (min (s.host.badAccesses.toNat + 1) 255) }
    (s.run.state ≠ .idle →
      (∀ p, exec (.timingSetWrite p 0xF#4 v) s = bad) ∧ (∀ k, exec (.tapWrite k 0xF#4 v) s = bad) ∧
        exec (.geometryWrite 0xF#4 v) s = bad) ∧
    (s.run.state = .idle →
      (∀ p, ∃ t, exec (.timingSetWrite p 0xF#4 v) s = .next t ∧
        t.timing.stored.get p = v.setWidth 16 ∧
        (∀ q, q ≠ p → t.timing.stored.get q = s.timing.stored.get q) ∧
        t = { s with timing.stored := t.timing.stored }) ∧
      (∀ k, exec (.tapWrite k 0xF#4 v) s =
        .next { s with sweep.taps := s.sweep.taps.modify k fun _ => v.setWidth 5 }) ∧
      (s.intake.queue ≠ [] → exec (.geometryWrite 0xF#4 v) s = bad) ∧
      (s.intake.queue = [] →
        (v.extractLsb' 0 2 = 2#2 ↔ s.timing.geometry.ranksPresent = 2#2) →
        exec (.geometryWrite 0xF#4 v) s = .next { s with
          timing.geometry := ⟨v.extractLsb' 0 2, v.extractLsb' 8 5, v.extractLsb' 16 8⟩ }))

/-- A geometry write that changes the number of ranks present sets rank 1's banks as the alert does and
its refresh state as SOFT_RESET does, and leaves rank 0 (R14, R63, R110). That its banks leave the pending
close order is log 16. -/
def Obligations.RankCountChangeResetsRankOne : Prop :=
  ∀ (s : State) (v : Word), s.run.state = .idle → s.intake.queue = [] →
    ¬ (v.extractLsb' 0 2 = 2#2 ↔ s.timing.geometry.ranksPresent = 2#2) →
    ∃ t, exec (.geometryWrite 0xF#4 v) s = .next t ∧
      t.timing.geometry = ⟨v.extractLsb' 0 2, v.extractLsb' 8 5, v.extractLsb' 16 8⟩ ∧
      (∀ b : BankAddr, b.rank = .r1 → bankAt t b = { bankAt s b with
        state := .unknown, accessReady := .stopped, closeTime := .stopped, closePending := false
        idle := 0 }) ∧
      (∀ b : BankAddr, b.rank = .r0 → bankAt t b = bankAt s b) ∧
      rankAt t .r1 = { rankAt s .r1 with
        recoveryNeeded := true
        debt := 0
        interval :=
          if v.extractLsb' 0 2 = 2#2 ∧ s.refresh.enable.r1 then .running (tclk s .refreshInterval)
          else .stopped } ∧
      rankAt t .r0 = rankAt s .r0 ∧
      t.arbiter.pendingClose = s.arbiter.pendingClose.filter (fun b => b.rank != .r1) ∧
      t = { s with
        timing.geometry := t.timing.geometry, banks := t.banks, ranks := t.ranks
        arbiter.pendingClose := t.arbiter.pendingClose }

/-- A register access with fewer than four byte enables is a bad access: a write changes nothing, a read
returns 0. The returned word is kept in readData (log 8). -/
def Obligations.NarrowAccessesAreBad : Prop :=
  ∀ (s : State) (be : BitVec 4) (v : Word), be ≠ 0xF#4 →
    let bad : State := { s with host.badAccesses := .ofNat 8 (min (s.host.badAccesses.toNat + 1) 255) }
    (∀ p, exec (.timingSetWrite p be v) s = .next bad) ∧ exec (.geometryWrite be v) s = .next bad ∧
    (∀ i, exec (.patternSlotWrite i be v) s = .next bad) ∧
    exec (.laneIgnoreMaskWrite be v) s = .next bad ∧ (∀ k, exec (.tapWrite k be v) s = .next bad) ∧
    exec (.recordIndexWrite be v) s = .next bad ∧ exec (.failLimitWrite be v) s = .next bad ∧
    exec (.haltOnRefreshMissWrite be v) s = .next bad ∧
    exec (.interruptFlagsWrite be v) s = .next bad ∧
    exec (.interruptEnablesWrite be v) s = .next bad ∧
    exec (.badAccessCounterWrite be v) s = .next bad ∧
    (∀ k, exec (.completionPortRead k be) s = .next { bad with host.readData := 0 }) ∧
    (∀ i, exec (.failRecordRead i be) s = .next { bad with host.readData := 0 }) ∧
    ∀ a : BusAccess, a.be = be → exec (.registerWrite a) s =
      .next (if a.isWrite then bad else { bad with host.readData := 0 })

/-- Reads of the completion port and of the fail record words: each word's fields, or 0 and a bad access
where there is nothing to show (R167, R149, R189). First the codes of a record's kind and status (R189), and
the record a view shows. The returned word is kept in readData (log 8). -/
def Obligations.PortReadsShowTheRecord : Prop :=
  (Kind.write.code = 1 ∧ Kind.read.code = 2 ∧ Kind.checkWrite.code = 3 ∧ Kind.pause.code = 4 ∧
    Kind.marker.code = 5 ∧ Kind.sweep.code = 6) ∧
  (Status.done.code = 0 ∧ Status.miscompare.code = 1 ∧ Status.lost.code = 2 ∧ Status.cutShort.code = 3) ∧
  (RecordView.empty.record? = none ∧ (∀ r, (RecordView.byIndex r).record? = some r) ∧
    ∀ r, (RecordView.released r).record? = some r) ∧
  ∀ s : State,
    let bad : Host.Outcome State Fault Refusal :=
      .next { s with
        host.readData := 0
        host.badAccesses := .ofNat 8 (min (s.host.badAccesses.toNat + 1) 255) }
    (s.run.completions = [] → ∀ k, exec (.completionPortRead k 0xF#4) s = bad) ∧
    (s.failLog.view = .empty → ∀ i, exec (.failRecordRead i 0xF#4) s = bad) ∧
    (∀ c rest, s.run.completions = c :: rest → c.issued < 2 ^ 25 →
      ∃ w : Quad → Word,
        (∀ k, exec (.completionPortRead k 0xF#4) s = .next { s with host.readData := w k }) ∧
        (w .q0).extractLsb' 0 8 = c.seq ∧ ((w .q0).extractLsb' 8 3).toNat = c.kind.code ∧
        ((w .q0).extractLsb' 12 2).toNat = c.status.code ∧
        ((w .q1).extractLsb' 0 25).toNat = c.issued ∧
        (w .q2).extractLsb' 0 16 = c.miscompares ∧ (w .q2).extractLsb' 16 8 = c.lost ∧
        (c.detail = .none → w .q3 = 0) ∧ (∀ m, c.detail = .marker m → w .q3 = m.setWidth 32) ∧
        ∀ r, c.detail = .sweep r →
          (w .q3).extractLsb' 0 5 = r.first ∧ (w .q3).extractLsb' 8 5 = r.last ∧
          (w .q3).extractLsb' 16 6 = r.width ∧ (w .q3).extractLsb' 24 5 = r.tapLeft ∧
          (w .q3).getLsbD 31 = r.found) ∧
    ∀ r, s.failLog.view.record? = some r → r.key.col < 2 ^ 7 → r.key.row < 2 ^ 17 →
      ∃ w : Fin 5 → Word,
        (∀ i, exec (.failRecordRead i 0xF#4) s = .next { s with host.readData := w i }) ∧
        ((w 0).extractLsb' 0 1).toNat = r.key.bank.rank.num ∧
        ((w 0).extractLsb' 1 2).toNat = r.key.bank.bankSet.num ∧
        ((w 0).extractLsb' 3 2).toNat = r.key.bank.bank.num ∧
        ((w 0).extractLsb' 8 7).toNat = r.key.col ∧ ((w 1).extractLsb' 0 17).toNat = r.key.row ∧
        w 2 = r.laneMask ∧ (w 3).extractLsb' 0 8 = r.beatMask ∧ (w 3).extractLsb' 8 8 = r.firstSeq ∧
        (w 3).extractLsb' 16 8 = r.lastSeq ∧ (w 4).extractLsb' 0 16 = r.hits

/-- The remaining local-bus accesses: a 32-bit read of a defined word returns it and changes nothing else;
an undefined offset, a write to a read-only or port word, and a command code that names none are bad. The
returned word is kept in readData, and REGISTER_WRITE carries reads too (log 8). Then what each word holds
that R187 and R189 do not lay out (R185, R186, R168), with the codes of the results (R185), and that bits
no field defines read 0 (R186, R189). -/
def Obligations.OtherAccessesByAttribute : Prop :=
  (ResultCode.none.code = 0 ∧ ResultCode.accepted.code = 1 ∧ ResultCode.queueFull.code = 2 ∧
    ResultCode.badKind.code = 3 ∧ ResultCode.badAddress.code = 4 ∧ ResultCode.badSweep.code = 5 ∧
    ResultCode.badPause.code = 6 ∧ ResultCode.engineBusy.code = 7 ∧ ResultCode.wrongState.code = 8 ∧
    ResultCode.configInvalid.code = 9 ∧ ResultCode.empty.code = 10) ∧
  (∀ (s : State) (a : BusAccess), a.be = 0xF#4 →
    let bad : State := { s with host.badAccesses := .ofNat 8 (min (s.host.badAccesses.toNat + 1) 255) }
    (∀ w, a.isWrite = false → a.word = some w → (∀ k, w ≠ .completion k) → (∀ i, w ≠ .failRecord i) →
      exec (.registerWrite a) s = .next { s with host.readData := readWord s w }) ∧
    (a.isWrite = false → a.word = none → exec (.registerWrite a) s = .next { bad with host.readData := 0 }) ∧
    (a.isWrite = true → a.word = none → exec (.registerWrite a) s = .next bad) ∧
    (a.isWrite = true →
      a.word ∈ [some .family, some .revision, some .result, some .statusRun, some .statusQueue,
        some .statusCounts, some .statusEvents, some .statusAborts, some .rankStates,
        some .refreshStatus, some .refreshMissed, some .failCount, some .failOverflow, some .viewState,
        some .sweepStatus] ++
        (List.range 4).map (fun k => some (.bankStates (.ofNum k))) ++
        (List.finRange 8).map (fun i => some (.statistic i)) ++
        (List.range 4).map (fun k => some (.completion (.ofNum k))) ++
        (List.finRange 5).map (fun i => some (.failRecord i)) ++
        (List.range 32).map (fun t => some (.sweepEntry (.ofNat 5 t))) →
      exec (.registerWrite a) s = .next bad) ∧
    (a.isWrite = true → a.word = some .command → (a.data.toNat % 16 = 0 ∨ 12 ≤ a.data.toNat % 16) →
      exec (.registerWrite a) s = .next bad)) ∧
  ∀ s : State,
    (readWord s .family = 0x00004704#32 ∧ readWord s .revision = 1#32 ∧
      (readWord s .command).extractLsb' 0 4 = s.host.commandCode ∧
      (readWord s .command).extractLsb' 8 2 = s.host.commandMask ∧
      ((readWord s .result).extractLsb' 0 8).toNat = s.host.resultCode.code ∧
      (readWord s .result).extractLsb' 8 8 = s.host.resultDetail ∧
      (∀ i : Fin 8, readWord s (.staging i) = s.host.staging[i])) ∧
    (readWord s (.statistic 0) = s.run.stats.opens ∧ readWord s (.statistic 1) = s.run.stats.closes ∧
      readWord s (.statistic 2) = s.run.stats.readsIssued ∧
      readWord s (.statistic 3) = s.run.stats.writesIssued ∧
      readWord s (.statistic 4) = s.run.stats.readsCompleted ∧
      readWord s (.statistic 5) = s.run.stats.readsLost ∧
      readWord s (.statistic 6) = s.run.stats.refreshes ∧
      readWord s (.statistic 7) = s.run.stats.miscompares.setWidth 32) ∧
    ((∀ p, readWord s (.timing p) = (s.timing.stored.get p).setWidth 32) ∧
      (readWord s .geometry).extractLsb' 0 2 = s.timing.geometry.ranksPresent ∧
      (readWord s .geometry).extractLsb' 8 5 = s.timing.geometry.rowsCode ∧
      (readWord s .geometry).extractLsb' 16 8 = s.timing.geometry.burstsPerRow) ∧
    ((readWord s .haltOnMiss).getLsbD 0 = s.refresh.haltOnMiss ∧
      (∀ i : Fin 8, readWord s (.slot i) = s.pattern.slots[i].setWidth 32) ∧
      readWord s .ignoreMask = s.pattern.ignoreMask ∧
      (∀ k, readWord s (.tap k) = (s.sweep.taps.get k).setWidth 32)) ∧
    (readWord s .recordIndex = s.failLog.index.setWidth 32 ∧
      (readWord s .viewState = match s.failLog.view with
        | .empty => 0#32
        | .byIndex _ => 1#32
        | .released _ => 2#32) ∧
      readWord s .failLimit = s.reads.failLimit.setWidth 32 ∧
      ∀ v, (readWord s (.sweepEntry v)).extractLsb' 0 8 = (sweepEntryAt s v).count ∧
        (readWord s (.sweepEntry v)).getLsbD 8 = (sweepEntryAt s v).tested) ∧
    (readWord s .flags = s.run.flags.setWidth 32 ∧ readWord s .enables = s.run.enables.setWidth 32) ∧
    let defined (w : WindowWord) : Word :=
      match w with
      | .family => 0x0000FFFF#32
      | .revision => 0x000000FF#32
      | .command => 0x0000030F#32
      | .result => 0x0000FFFF#32
      | .statusRun => 0x00FF71F7#32
      | .statusQueue => 0x00FFFF3F#32
      | .statusCounts => 0x7DF1FF1F#32
      | .statusEvents => 0xFFFFFF0F#32
      | .statusAborts => 0x000000FF#32
      | .rankStates => 0x00000303#32
      | .timing _ => 0x0000FFFF#32
      | .geometry => 0x00FF1F03#32
      | .refreshStatus => 0x0000F7F7#32
      | .refreshMissed => 0x000000FF#32
      | .haltOnMiss => 0x00000001#32
      | .slot _ => 0x000000FF#32
      | .tap _ => 0x0000001F#32
      | .completion .q0 => 0x000037FF#32
      | .completion .q1 => 0x01FFFFFF#32
      | .completion .q2 => 0x00FFFFFF#32
      | .completion .q3 => 0x9F3F1FFF#32
      | .failCount => 0x0000003F#32
      | .failOverflow => 0x0000FFFF#32
      | .recordIndex => 0x000000FF#32
      | .viewState => 0x00000003#32
      | .failLimit => 0x0000FFFF#32
      | .failRecord 0 => 0x00007F1F#32
      | .failRecord 1 => 0x0001FFFF#32
      | .failRecord 3 => 0x00FFFFFF#32
      | .failRecord 4 => 0x0000FFFF#32
      | .sweepEntry _ => 0x000001FF#32
      | .sweepStatus => 0xFF1F1F07#32
      | .flags => 0x0000003F#32
      | .enables => 0x0000003F#32
      | .badAccess => 0x000000FF#32
      | _ => 0xFFFFFFFF#32
    ∀ w, readWord s w &&& ~~~ defined w = 0#32

/-! ## The alert input -/

/-- The alert sampler: an active sample after an inactive one is a rising event, taken by run control
(R192, R160, R59); any other sample only updates the sampler, power-on reset takes the previous sample as
active, and SOFT_RESET does not touch it. That TARGET_ALERT is one active sample is log 12. -/
def Obligations.AlertSamples : Prop :=
  State.reset.capture.alertWasActive = true ∧ ∀ s : State,
    (∃ t, exec .softReset s = .next t ∧ t.capture.alertWasActive = s.capture.alertWasActive) ∧
    exec .alertInactiveSample s = .next { s with capture.alertWasActive := false } ∧
    (s.capture.alertWasActive = true → exec .targetAlert s = .next s) ∧
    (s.capture.alertWasActive = false → ∃ t, exec .targetAlert s = .next t ∧
      t.capture.alertWasActive = true ∧
      t.run.alerts = .ofNat 8 (min (s.run.alerts.toNat + 1) 255) ∧
      (∀ b : BankAddr, bankAt t b =
        if isPresent s b.rank then
          { bankAt s b with
            state := .unknown, accessReady := .stopped, closeTime := .stopped
            closePending := false, idle := 0 }
        else bankAt s b) ∧
      (∀ r, rankAt t r =
        if isPresent s r then { rankAt s r with recoveryNeeded := true } else rankAt s r) ∧
      t.arbiter.pendingClose = s.arbiter.pendingClose.filter (fun b => !isPresent s b.rank) ∧
      t.messages.haltRequests =
        (if s.run.state = .running ∨ s.run.state = .draining then
          s.messages.haltRequests ++ [.targetAlert] else s.messages.haltRequests) ∧
      t = { s with
        capture.alertWasActive := true, run.alerts := t.run.alerts, banks := t.banks
        ranks := t.ranks, arbiter.pendingClose := t.arbiter.pendingClose
        messages.haltRequests := t.messages.haltRequests })

/-! ## The command opportunity -/

/-- COMMAND_OPPORTUNITY: the arbiter issues its choice or drives no command, what is still due in the tclk
is taken, and the tclk passes. What is taken is what the commands of the events themselves would take, in
the fixed order of log 3. That the opportunity is also its tclk is log 2. -/
def Obligations.OpportunityIssuesOrPasses : Prop :=
  ∀ s : State,
    exec .commandOpportunity s = .next (passTclk (settleOverdue (takeOpportunity s))) ∧
    (∀ n c, choose s = some (n, c) → takeOpportunity s = issue n c s) ∧
    (choose s = none → takeOpportunity s = { s with arbiter.bus := ⟨0, 0, 0, 0, 0⟩ }) ∧
    (s.run.settle ≠ none → choose s = none) ∧
    let after (x : State) (c : Instr) : State :=
      match exec c x with
      | .next y => y
      | .fault _ => x
      | .refused _ => x
    let ofBank (b : BankAddr) : List Instr :=
      [.accessReadyExpiry b, .restoreExpiry b, .writeRecoveryExpiry b, .readCloseWaitExpiry b,
       .closeTimeExpiry b]
    let overdue : List Instr :=
      allBanks.flatMap ofBank ++
        [.refreshTimeExpiry .r0, .refreshTimeExpiry .r1, .writeDataPhaseEnd] ++
        List.replicate (s.capture.arrivals.length + 1) .dataArrival ++
        [.deadlineExpiry, .intervalExpiry .r0, .intervalExpiry .r1, .pauseExpiry, .settlePeriodEnd]
    settleOverdue s = overdue.foldl after s

/-- The command chosen is the first of the ladder that is eligible and not withheld; the rungs are looked
at in order, each only in the run states in which it applies (R86, R89, R95). Then what each rung offers,
and in which order (R84, R85, R87, R88, R90 to R94). -/
def Obligations.ChoiceIsFirstOnLadder : Prop :=
  (∀ s : State, s.run.settle = none →
    let applies (n : Nat) : Prop :=
      n ∈ [1, 2, 8] ∨ (n ∈ [3, 4, 5, 6, 7, 9] ∧ (s.run.state = .running ∨ s.run.state = .draining))
    let ready (c : ArrayCommand) : Prop := eligible s c = true ∧ withheld s c = false
    (∀ n c, choose s = some (n, c) → applies n ∧
      (∃ ahead behind, rung s n = ahead ++ c :: behind ∧ ∀ x ∈ ahead, ¬ ready x) ∧ ready c ∧
      ∀ m, m < n → applies m → ∀ x ∈ rung s m, ¬ ready x) ∧
    (choose s = none ↔ ∀ n, applies n → ∀ x ∈ rung s n, ¬ ready x)) ∧
  ∀ s : State,
    let isOpen (b : BankAddr) : Prop := ∃ row, (bankAt s b).state = .opened row
    let isOpening (b : BankAddr) : Prop := ∃ row, (bankAt s b).state = .opening row
    let hasWork (r : Rank) : Prop := ∃ a ∈ s.window, a.addr.bank.rank = r
    let owes (r : Rank) : Prop := 1 ≤ (rankAt s r).debt
    let someBank (r : Rank) (p : BankAddr → Prop) : Prop := ∃ b : BankAddr, b.rank = r ∧ p b
    let closing (r : Rank) : Prop :=
      match s.run.state with
      | .running => (rankAt s r).recoveryNeeded = true ∧ (hasWork r ∨ owes r)
      | .draining => (rankAt s r).recoveryNeeded = true ∧ (hasWork r ∨ owes r)
      | .idle => (rankAt s r).recoveryNeeded = true ∧ owes r
      | .halted => (rankAt s r).recoveryNeeded = true ∧ owes r
      | .aborting => someBank r fun b => isOpen b ∨ isOpening b ∨ (bankAt s b).state = .unknown
    let refreshing (r : Rank) (c : ArrayCommand) : Prop :=
      (¬ someBank r fun b => (bankAt s b).state = .unknown) ∧
        (((someBank r fun b => isOpen b ∨ isOpening b) ∧ c = .closeRank r) ∨
          ((∀ b : BankAddr, b.rank = r → (bankAt s b).state = .closed) ∧ c = .refresh r))
    let byRank (n : Nat) (offers : Rank → ArrayCommand → Prop) : Prop :=
      ∃ ranks : List Rank, ranks.Sublist [.r0, .r1] ∧
        (∀ r, r ∈ ranks ↔ isPresent s r = true ∧ ∃ c, offers r c) ∧
        List.Forall₂ offers ranks (rung s n)
    let head (i : Nat) (a : Access) : Prop :=
      s.window[i]? = some a ∧ ∀ j x, j < i → s.window[j]? = some x → x.addr.bank ≠ a.addr.bank
    let next (a : Access) (c : ArrayCommand) : Prop :=
      ((bankAt s a.addr.bank).state = .closed ∧ c = .openRow a.addr.bank a.addr.row) ∨
        (isOpen a.addr.bank ∧ (bankAt s a.addr.bank).closePending = true ∧ c = .close a.addr.bank) ∨
        ((bankAt s a.addr.bank).closePending = false ∧ ∃ row, (bankAt s a.addr.bank).state = .opened row ∧
          ((row = a.addr.row ∧ c = match a.op with | .read => .read a | .write => .write a) ∨
            (row ≠ a.addr.row ∧ c = .close a.addr.bank)))
    let starves (a : Access) : Prop := tclk s .starveLimit ≤ a.bypass
    let byWindow (n : Nat) (offers : Access → ArrayCommand → Prop) : Prop :=
      ∃ places : List Nat, places.Pairwise (· < ·) ∧
        (∀ i, i ∈ places ↔ ∃ a c, head i a ∧ offers a c) ∧
        List.Forall₂ (fun i c => ∃ a, head i a ∧ offers a c) places (rung s n)
    (∀ a c, nextCommand s a = some c ↔ next a c) ∧
    byRank 1 (fun r c => closing r ∧ c = .closeRank r) ∧
    byRank 2 (fun r c => (rankAt s r).debt ≥ 8 ∧ refreshing r c) ∧
    byWindow 3 (fun a c => starves a ∧ next a c) ∧
    rung s 4 = s.arbiter.pendingClose.map .close ∧
    byWindow 5 (fun a c => ¬ starves a ∧ next a c ∧ (c = .read a ∨ c = .write a)) ∧
    byWindow 6 (fun a c => ¬ starves a ∧ next a c ∧ c = .openRow a.addr.bank a.addr.row) ∧
    byWindow 7 (fun a c => ¬ starves a ∧ next a c ∧ c = .close a.addr.bank ∧
      (bankAt s a.addr.bank).closePending = false) ∧
    byRank 8 (fun r c => owes r ∧ (rankAt s r).debt < 8 ∧ ¬ hasWork r ∧ refreshing r c) ∧
    ∃ banks : List BankAddr, rung s 9 = banks.map .close ∧
      (∀ b, b ∈ banks ↔ isPresent s b.rank = true ∧ isOpen b ∧ (bankAt s b).closePending = false ∧
        tclk s .pageHold ≠ 0 ∧ tclk s .pageHold ≤ (bankAt s b).idle ∧ ∀ a ∈ s.window, a.addr.bank ≠ b) ∧
      banks.Pairwise fun b c => (bankAt s c).idle < (bankAt s b).idle ∨
        ((bankAt s b).idle = (bankAt s c).idle ∧ bankNumber b < bankNumber c)

/-- A command is eligible and not withheld exactly when its row of the table of section 4.7 holds (R46, R56,
R73 to R79) and, for an OPEN, urgent refresh does not withhold it (R89). A chosen command satisfies its row,
and a chosen REFRESH pays a debt (R88, R90). -/
def Obligations.IssuedCommandsAreAllowed : Prop :=
  ∀ (s : State) (c : ArrayCommand),
    let gaps (b : BankAddr) : Prop :=
      (s.holds.get (.setAccess b.rank b.bankSet)).remaining = 0 ∧
      (s.holds.get (.rankAccess b.rank)).remaining = 0 ∧ (s.holds.get (.rankSwitch b.rank)).remaining = 0
    let allowed : Prop :=
      match c with
      | .openRow b _ =>
        (bankAt s b).state = .closed ∧ (rankAt s b.rank).state = .ready ∧
        (rankAt s b.rank).recoveryNeeded = false ∧ (rankAt s b.rank).debt < 8 ∧
        (s.holds.get (.setOpen b.rank b.bankSet)).remaining = 0 ∧
        (∀ older newest, (rankAt s b.rank).history = older ++ [newest] → tclk s .openGapOtherSet ≤ newest) ∧
        (∀ oldest later, (rankAt s b.rank).history = oldest :: later → 3 ≤ later.length →
          tclk s .fourOpenWindow ≤ oldest)
      | .read a =>
        (bankAt s a.addr.bank).state = .opened a.addr.row ∧ (bankAt s a.addr.bank).closePending = false ∧
        gaps a.addr.bank ∧ (s.holds.get (.setWriteToRead a.addr.bank.rank a.addr.bank.bankSet)).remaining = 0 ∧
        (s.holds.get (.rankWriteToRead a.addr.bank.rank)).remaining = 0 ∧
        (s.holds.get .dataLane).remaining ≤ tclk s .readLatency ∧ s.reads.inFlight.length < 8
      | .write a =>
        (bankAt s a.addr.bank).state = .opened a.addr.row ∧ (bankAt s a.addr.bank).closePending = false ∧
        gaps a.addr.bank ∧ (s.holds.get (.readToWrite a.addr.bank.rank)).remaining = 0 ∧
        (s.holds.get .dataLane).remaining ≤ tclk s .writeLatency
      | .close b =>
        (∃ row, (bankAt s b).state = .opened row) ∧ (bankAt s b).restore = .stopped ∧
        (bankAt s b).writePhases = 0 ∧ (bankAt s b).writeRecovery = .stopped ∧
        (bankAt s b).readCloseWait = .stopped
      | .closeRank r =>
        (rankAt s r).state = .ready ∧
        (∀ b : BankAddr, b.rank = r → ∀ row, (bankAt s b).state ≠ .opening row) ∧
        (∀ b : BankAddr, b.rank = r → ((bankAt s b).state = .unknown ∨ ∃ row, (bankAt s b).state = .opened row) →
          (bankAt s b).restore = .stopped ∧ (bankAt s b).writePhases = 0 ∧
          (bankAt s b).writeRecovery = .stopped ∧ (bankAt s b).readCloseWait = .stopped) ∧
        ∃ b : BankAddr, b.rank = r ∧ (bankAt s b).state ≠ .closed
      | .refresh r =>
        (rankAt s r).state = .ready ∧ ∀ b : BankAddr, b.rank = r → (bankAt s b).state = .closed
    (eligible s c = true ∧ withheld s c = false ↔ allowed) ∧
      ∀ n, choose s = some (n, c) → allowed ∧ ∀ r, c = .refresh r → 1 ≤ (rankAt s r).debt

/-- The issue of an OPEN, a CLOSE, a CLOSE_RANK and a REFRESH (R47, R54, R57, R60, R61, R71, R82, R91, R99,
R105, R168, R190). -/
def Obligations.BankCommandsIssue : Prop :=
  ∀ (s : State) (n : Nat),
    let closes : Word := .ofNat 32 (min (s.run.stats.closes.toNat + 1) (2 ^ 32 - 1))
    (∀ b row, choose s = some (n, .openRow b row) →
    ∃ t, takeOpportunity s = t ∧
      bankAt t b = { bankAt s b with
        state := .opening row
        accessReady := .running (tclk s .openToAccess)
        restore := .running (tclk s .openToClose)
        closePending := false
        idle := 0 } ∧
      (∀ c, c ≠ b → bankAt t c = bankAt s c) ∧
      ((rankAt s b.rank).history.length < 4 →
        rankAt t b.rank = { rankAt s b.rank with history := (rankAt s b.rank).history ++ [0] }) ∧
      (∀ oldest later, (rankAt s b.rank).history = oldest :: later → later.length = 3 →
        rankAt t b.rank = { rankAt s b.rank with history := later ++ [0] }) ∧
      (∀ r, r ≠ b.rank → rankAt t r = rankAt s r) ∧
      (t.holds.get (.setOpen b.rank b.bankSet)).remaining =
        max (s.holds.get (.setOpen b.rank b.bankSet)).remaining (tclk s .openGapSameSet) ∧
      (∀ h, h ≠ .setOpen b.rank b.bankSet → t.holds.get h = s.holds.get h) ∧
      t = { s with
        banks := t.banks, ranks := t.ranks, holds := t.holds
        arbiter.lastRung := n
        arbiter.bus := ⟨1, .ofNat 1 b.rank.num, .ofNat 2 b.bankSet.num, .ofNat 2 b.bank.num, .ofNat 17 row⟩
        run.stats.opens := .ofNat 32 (min (s.run.stats.opens.toNat + 1) (2 ^ 32 - 1)) }) ∧
    (∀ b, choose s = some (n, .close b) → ∃ t, takeOpportunity s = t ∧
      bankAt t b = { bankAt s b with
        state := .closing, closeTime := .running (tclk s .closeTime), closePending := false, idle := 0 } ∧
      (∀ c, c ≠ b → bankAt t c = bankAt s c) ∧
      t = { s with
        banks := t.banks
        arbiter.pendingClose := s.arbiter.pendingClose.filter (fun c => c ≠ b)
        arbiter.lastRung := n
        arbiter.bus := ⟨2, .ofNat 1 b.rank.num, .ofNat 2 b.bankSet.num, .ofNat 2 b.bank.num, 0⟩
        run.stats.closes := closes }) ∧
    (∀ r, choose s = some (n, .closeRank r) → ∃ t, takeOpportunity s = t ∧
      (∀ b : BankAddr, b.rank = r → bankAt t b =
        if (bankAt s b).state = .closed then { bankAt s b with closePending := false, idle := 0 }
        else { bankAt s b with
          state := .closing, closeTime := .running (tclk s .closeTime), closePending := false, idle := 0 }) ∧
      (∀ b : BankAddr, b.rank ≠ r → bankAt t b = bankAt s b) ∧
      rankAt t r = { rankAt s r with recoveryNeeded := false } ∧
      (∀ q, q ≠ r → rankAt t q = rankAt s q) ∧
      t = { s with
        banks := t.banks, ranks := t.ranks
        arbiter.pendingClose := s.arbiter.pendingClose.filter (fun c => c.rank ≠ r)
        arbiter.lastRung := n
        arbiter.bus := ⟨3, .ofNat 1 r.num, 0, 0, 0⟩
        run.stats.closes := closes }) ∧
    ∀ r, choose s = some (n, .refresh r) → ∃ t, takeOpportunity s = t ∧
      rankAt t r = { rankAt s r with
        state := .refreshing
        refreshTime := .running (tclk s .refreshTime)
        debt := (rankAt s r).debt - 1 } ∧
      (∀ q, q ≠ r → rankAt t q = rankAt s q) ∧
      t = { s with
        ranks := t.ranks
        arbiter.lastRung := n
        arbiter.bus := ⟨6, .ofNat 1 r.num, 0, 0, 0⟩
        run.stats.refreshes := .ofNat 32 (min (s.run.stats.refreshes.toNat + 1) (2 ^ 32 - 1)) }

/-- The issue of a READ and of a WRITE (R40, R49, R50, R71, R77, R82, R126, R135, R190). -/
def Obligations.AccessesIssue : Prop :=
  (otherRank .r0 = .r1 ∧ otherRank .r1 = .r0) ∧
  (∀ (s : State) (n : Nat) (a : Access), choose s = some (n, .read a) →
    let b := a.addr.bank
    ∃ t, takeOpportunity s = t ∧
      bankAt t b = { bankAt s b with
        readCloseWait := .running 4, idle := 0
        closePending := (bankAt s b).closePending || a.closeAfter } ∧
      (∀ c, c ≠ b → bankAt t c = bankAt s c) ∧
      (∀ h, (t.holds.get h).remaining =
        if h = .setAccess b.rank b.bankSet then
          max (s.holds.get h).remaining (tclk s .accessGapSameSet)
        else if h = .rankAccess b.rank then max (s.holds.get h).remaining (tclk s .accessGapOtherSet)
        else if h = .rankSwitch (otherRank b.rank) then
          max (s.holds.get h).remaining (tclk s .rankSwitchGap)
        else if h = .readToWrite b.rank then max (s.holds.get h).remaining (tclk s .readToWrite)
        else if h = .dataLane then max (s.holds.get h).remaining (tclk s .readLatency + 4)
        else (s.holds.get h).remaining) ∧
      t = { s with
        banks := t.banks, holds := t.holds, window := t.window
        intake.queue := s.intake.queue.map fun d =>
          if d.seq = a.seq then { d with issued := d.issued + 1 } else d
        reads.inFlight := s.reads.inFlight ++
          [{ seq := a.seq, addr := a.addr, pattern := a.pattern, sweepRead := a.sweepRead
             deadline := tclk s .readTimeout }]
        arbiter.pendingClose := s.arbiter.pendingClose ++ (if a.closeAfter then [b] else [])
        arbiter.lastRung := n
        arbiter.bus := ⟨4, .ofNat 1 b.rank.num, .ofNat 2 b.bankSet.num, .ofNat 2 b.bank.num,
          .ofNat 17 a.addr.col⟩
        run.stats.readsIssued := .ofNat 32 (min (s.run.stats.readsIssued.toNat + 1) (2 ^ 32 - 1)) }) ∧
  ∀ (s : State) (n : Nat) (a : Access), choose s = some (n, .write a) →
    let b := a.addr.bank
    ∃ t, takeOpportunity s = t ∧
      bankAt t b = { bankAt s b with
        writePhases := (bankAt s b).writePhases + 1, idle := 0
        closePending := (bankAt s b).closePending || a.closeAfter } ∧
      (∀ c, c ≠ b → bankAt t c = bankAt s c) ∧
      (∀ h, (t.holds.get h).remaining =
        if h = .setAccess b.rank b.bankSet then
          max (s.holds.get h).remaining (tclk s .accessGapSameSet)
        else if h = .rankAccess b.rank then max (s.holds.get h).remaining (tclk s .accessGapOtherSet)
        else if h = .rankSwitch (otherRank b.rank) then
          max (s.holds.get h).remaining (tclk s .rankSwitchGap)
        else if h = .setWriteToRead b.rank b.bankSet then
          max (s.holds.get h).remaining (tclk s .writeLatency + 4 + tclk s .writeToReadSameSet)
        else if h = .rankWriteToRead b.rank then
          max (s.holds.get h).remaining (tclk s .writeLatency + 4 + tclk s .writeToReadOtherSet)
        else if h = .dataLane then max (s.holds.get h).remaining (tclk s .writeLatency + 4)
        else (s.holds.get h).remaining) ∧
      t = { s with
        banks := t.banks, holds := t.holds, window := t.window
        intake.queue := s.intake.queue.map fun d =>
          if d.seq = a.seq then { d with issued := d.issued + 1 } else d
        reads.writePhases := s.reads.writePhases ++
          [{ seq := a.seq, addr := a.addr, pattern := a.pattern, remaining := tclk s .writeLatency + 4 }]
        arbiter.pendingClose := s.arbiter.pendingClose ++ (if a.closeAfter then [b] else [])
        arbiter.lastRung := n
        arbiter.bus := ⟨5, .ofNat 1 b.rank.num, .ofNat 2 b.bankSet.num, .ofNat 2 b.bank.num,
          .ofNat 17 a.addr.col⟩
        run.stats.writesIssued := .ofNat 32 (min (s.run.stats.writesIssued.toNat + 1) (2 ^ 32 - 1)) }

/-- An access issues only as the oldest access to its bank (R84). The window after the issue of a READ or
WRITE: the access is gone, the accesses behind it are as they were, and each one ahead of it has its
bypass count raised exactly when R96 says so; an OPEN that urgent refresh withholds counts when the bank
table and the spacing monitor allow it (log 22). -/
def Obligations.IssuedAccessesLeaveTheWindow : Prop :=
  ∀ (s : State) (n : Nat) (a : Access),
    (choose s = some (n, .read a) ∨ choose s = some (n, .write a)) →
    ∃ ahead behind, s.window = ahead ++ a :: behind ∧ (∀ x ∈ ahead, x.addr.bank ≠ a.addr.bank) ∧
      (takeOpportunity s).window.length + 1 = s.window.length ∧
      (takeOpportunity s).window.drop ahead.length = behind ∧
      ∀ earlier x later, ahead = earlier ++ x :: later →
        (takeOpportunity s).window[earlier.length]? = some (
          if x.addr.bank.rank = a.addr.bank.rank ∧ (∀ y ∈ earlier, y.addr.bank ≠ x.addr.bank) ∧
              (∃ c, nextCommand s x = some c ∧ eligible s c = true)
          then { x with bypass := min (x.bypass + 1) 63 } else x)

/-- One tclk passes over every count, and over nothing else. That COMMAND_OPPORTUNITY holds this passing
is log 2. -/
def Obligations.TclkMovesEveryCount : Prop :=
  ∀ s : State, ∃ t, passTclk s = t ∧
    (∀ b, ∃ k, bankAt t b = k ∧
      k.accessReady.remaining = (bankAt s b).accessReady.remaining - 1 ∧
      k.restore.remaining = (bankAt s b).restore.remaining - 1 ∧
      k.writeRecovery.remaining = (bankAt s b).writeRecovery.remaining - 1 ∧
      k.readCloseWait.remaining = (bankAt s b).readCloseWait.remaining - 1 ∧
      k.closeTime.remaining = (bankAt s b).closeTime.remaining - 1 ∧
      k.accessReady.isRunning = (bankAt s b).accessReady.isRunning ∧
      k.restore.isRunning = (bankAt s b).restore.isRunning ∧
      k.writeRecovery.isRunning = (bankAt s b).writeRecovery.isRunning ∧
      k.readCloseWait.isRunning = (bankAt s b).readCloseWait.isRunning ∧
      k.closeTime.isRunning = (bankAt s b).closeTime.isRunning ∧
      k.idle = (match (bankAt s b).state with
        | .opening _ => min ((bankAt s b).idle + 1) 4095
        | .opened _ => min ((bankAt s b).idle + 1) 4095
        | _ => (bankAt s b).idle) ∧
      k.state = (bankAt s b).state ∧ k.writePhases = (bankAt s b).writePhases ∧
      k.closePending = (bankAt s b).closePending) ∧
    (∀ r, ∃ k, rankAt t r = k ∧
      k.history = (rankAt s r).history.map (fun age => min (age + 1) 255) ∧
      k.refreshTime.remaining = (rankAt s r).refreshTime.remaining - 1 ∧
      k.refreshTime.isRunning = (rankAt s r).refreshTime.isRunning ∧
      k.interval = (match (rankAt s r).interval with
        | .running n => .running (n - 1)
        | other => other) ∧
      k.state = (rankAt s r).state ∧ k.recoveryNeeded = (rankAt s r).recoveryNeeded ∧
      k.debt = (rankAt s r).debt) ∧
    (∀ h, (t.holds.get h).remaining = (s.holds.get h).remaining - 1) ∧
    t.reads.inFlight = s.reads.inFlight.map (fun e => { e with deadline := e.deadline - 1 }) ∧
    t.reads.writePhases = s.reads.writePhases.map (fun p => { p with remaining := p.remaining - 1 }) ∧
    (∀ q n, s.expander = .pausing q n →
      t.expander = .pausing q (if s.run.state = .running then n - 1 else n)) ∧
    ((∀ q n, s.expander ≠ .pausing q n) → t.expander = s.expander) ∧
    t.run.settle = s.run.settle.map (fun p => { p with elapsed := p.elapsed + 1 }) ∧
    t.capture.burst = s.capture.burst.map (fun b => { b with age := b.age + 1 }) ∧
    t = { s with
      banks := t.banks, ranks := t.ranks, holds := t.holds, reads.inFlight := t.reads.inFlight
      reads.writePhases := t.reads.writePhases, expander := t.expander, run.settle := t.run.settle
      capture.burst := t.capture.burst }

/-! ## Expiries -/

/-- HOLD_EXPIRY stops a hold whose count has run out and leaves every other hold; PAGE_HOLD_EXPIRY changes
nothing, an OPEN bank that nothing wants being offered at rung 9 from its idle time (R53, R71, R93). The
expiries of a bank's timers and of a rank's refresh time: each stops its own timer, ACCESS_READY makes an
OPENING bank OPEN on its row, CLOSE_TIME a CLOSING bank CLOSED, REFRESH_TIME the rank READY, and nothing
else changes (R48–R51, R55, R61). What the model makes of HOLD_EXPIRY and PAGE_HOLD_EXPIRY is log 21, of
an expiry that is not due log 1. -/
def Obligations.TimerExpiries : Prop :=
  (∀ (s : State) (h : HoldId), ∃ t, exec (.holdExpiry h) s = .next t ∧
    t.holds.get h = (if s.holds.get h = .running 0 then .stopped else s.holds.get h) ∧
    (∀ i, i ≠ h → t.holds.get i = s.holds.get i) ∧
    (∀ i, holdExpired t i = holdExpired s i) ∧ t = { s with holds := t.holds }) ∧
  (∀ (s : State) (b : BankAddr), exec (.pageHoldExpiry b) s = .next s ∧
    (ArrayCommand.close b ∈ rung s 9 ↔
      isPresent s b.rank = true ∧ (∃ row, (bankAt s b).state = .opened row) ∧
      (bankAt s b).closePending = false ∧ tclk s .pageHold ≠ 0 ∧
      tclk s .pageHold ≤ (bankAt s b).idle ∧ ∀ a ∈ s.window, a.addr.bank ≠ b)) ∧
  ∀ (s : State) (b : BankAddr) (r : Rank),
    let toBank (k : BankRecord) : Host.Outcome State Fault Refusal :=
      .next { s with banks := s.banks.modify b.rank fun g => g.modify b.bankSet fun q => q.modify b.bank fun _ => k }
    let k := bankAt s b
    (∀ row, k.accessReady = .running 0 → k.state = .opening row →
      exec (.accessReadyExpiry b) s = toBank { k with accessReady := .stopped, state := .opened row }) ∧
    (k.restore = .running 0 → exec (.restoreExpiry b) s = toBank { k with restore := .stopped }) ∧
    (k.writeRecovery = .running 0 →
      exec (.writeRecoveryExpiry b) s = toBank { k with writeRecovery := .stopped }) ∧
    (k.readCloseWait = .running 0 →
      exec (.readCloseWaitExpiry b) s = toBank { k with readCloseWait := .stopped }) ∧
    (k.closeTime = .running 0 → k.state = .closing →
      exec (.closeTimeExpiry b) s = toBank { k with closeTime := .stopped, state := .closed }) ∧
    ((rankAt s r).refreshTime = .running 0 → exec (.refreshTimeExpiry r) s =
      .next { s with
        ranks := s.ranks.modify r fun q => { q with refreshTime := .stopped, state := .ready } }) ∧
    (k.accessReady ≠ .running 0 → exec (.accessReadyExpiry b) s = .next s) ∧
    (k.restore ≠ .running 0 → exec (.restoreExpiry b) s = .next s) ∧
    (k.writeRecovery ≠ .running 0 → exec (.writeRecoveryExpiry b) s = .next s) ∧
    (k.readCloseWait ≠ .running 0 → exec (.readCloseWaitExpiry b) s = .next s) ∧
    (k.closeTime ≠ .running 0 → exec (.closeTimeExpiry b) s = .next s) ∧
    ((rankAt s r).refreshTime ≠ .running 0 → exec (.refreshTimeExpiry r) s = .next s)

/-- PAUSE_EXPIRY and FENCE_TAKE (R34, R24). That an event that is not due or not enabled changes nothing
is log 1. -/
def Obligations.PauseExpiryAndFenceTake : Prop :=
  ∀ s : State,
    exec .fenceTake s = .next (fenceTake s) ∧
    (∀ q, s.expander = .pausing q 0 → s.run.state = .running →
      exec .pauseExpiry s = .next (examine { s with
        expander := .idle
        intake.queue := s.intake.queue.map fun d =>
          if d.seq = q then { d with life := .complete, cutShort := false } else d
        refreshHold := ⟨false, false⟩
        ranks := .tabulate fun r =>
          if s.refreshHold.get r then
            { rankAt s r with interval := (rankAt s r).interval.release } else rankAt s r })) ∧
    (∀ q n, s.expander = .pausing q (n + 1) → exec .pauseExpiry s = .next s) ∧
    (∀ d rest r, s.expander = .fenceWait d.seq → s.run.state = .running →
      s.intake.queue = d :: rest → d.work = .region r → (∀ x ∈ rest, x.seq ≠ d.seq) →
      exec .fenceTake s = .next { s with
        intake.queue := { d with life := .expanding } :: rest
        expander := .expanding d.seq r.rowFirst r.colFirst }) ∧
    (∀ d rest f, s.expander = .fenceWait d.seq → s.run.state = .running →
      s.intake.queue = d :: rest → d.work = .sweep f → (∀ x ∈ rest, x.seq ≠ d.seq) →
      exec .fenceTake s = .next { s with
        intake.queue := { d with life := .expanding } :: rest
        sweep.table := .replicate 32 ⟨false, 0⟩
        expander := .sweeping .settle
          ⟨d.seq, f, s.sweep.taps.get f.lane, f.tapFirst, 0, 0, 0, false, false, false⟩ }) ∧
    (∀ d rest n h, s.expander = .fenceWait d.seq → s.run.state = .running →
      s.intake.queue = d :: rest → d.work = .pause n h → (∀ x ∈ rest, x.seq ≠ d.seq) →
      ∃ t, exec .fenceTake s = .next t ∧
        t.intake.queue = { d with life := .expanding } :: rest ∧
        t.expander = .pausing d.seq (n.toNat * 1024) ∧
        (∀ r, t.refreshHold.get r = (s.refreshHold.get r || (isPresent s r && h.get r))) ∧
        (∀ r, rankAt t r =
          if isPresent s r ∧ h.get r then
            { rankAt s r with interval := (rankAt s r).interval.hold } else rankAt s r) ∧
        t = { s with
          intake.queue := t.intake.queue, expander := t.expander, refreshHold := t.refreshHold
          ranks := t.ranks }) ∧
    (∀ q, s.expander = .fenceWait q → s.run.state ≠ .running ∨
      (∀ d rest, s.intake.queue = d :: rest → d.seq ≠ q) → exec .fenceTake s = .next s)

/-- WRITE_DATA_PHASE_END completes the oldest WRITE (R135, R50, R81). DEADLINE_EXPIRY removes every entry
as LOST (R132); with a sweep in hand each lost read is a mismatch and the last outstanding one finishes the
tap (R177), and under the abort mark the sweep is wound down (R181). In ABORTING no descriptor's lifecycle
moves (R17). That an event that is not due changes nothing is log 1, the mark endDue log 13. -/
def Obligations.PhaseEndsAndDeadlines : Prop :=
  (∀ (s : State) (p : WritePhase) (rest : List WritePhase), s.reads.writePhases = p :: rest →
    (p.remaining ≠ 0 → exec .writeDataPhaseEnd s = .next s) ∧
    (p.remaining = 0 → exec .writeDataPhaseEnd s = .next { s with
      reads.writePhases := rest
      banks := s.banks.modify p.addr.bank.rank fun g => g.modify p.addr.bank.bankSet fun q =>
        q.modify p.addr.bank.bank fun k =>
          { k with
            writePhases := k.writePhases - 1
            writeRecovery := .running (tclk s .writeRecovery) }
      intake.queue := s.intake.queue.map fun d =>
        if d.seq = p.seq then
          { d with
            completed := d.completed + 1
            life :=
              if s.run.state ≠ .aborting ∧ d.life = .expanded ∧ d.completed + 1 = d.total then .complete
              else d.life }
        else d })) ∧
  ∀ (s : State) (e : InFlight) (rest : List InFlight), s.reads.inFlight = e :: rest →
    (e.deadline ≠ 0 → exec .deadlineExpiry s = .next s) ∧
    (e.deadline = 0 → ∃ t, exec .deadlineExpiry s = .next t ∧ t.reads.inFlight = [] ∧
      t.reads.timeouts = .ofNat 8 (min (s.reads.timeouts.toNat + 1) 255) ∧
      t.messages.haltRequests = s.messages.haltRequests ++ [.readTimeout] ∧
      t.run.stats.readsLost =
        .ofNat 32 (min (s.run.stats.readsLost.toNat + (rest.length + 1)) (2 ^ 32 - 1)) ∧
      t.intake.queue.length = s.intake.queue.length ∧
      (∀ i (h : i < s.intake.queue.length) (h' : i < t.intake.queue.length),
        let d := s.intake.queue[i]
        let lost := (e :: rest).countP fun x => x.seq = d.seq
        t.intake.queue[i] = { d with
          completed := d.completed + lost
          lost := .ofNat 8 (min (d.lost.toNat + lost) 255)
          life :=
            if s.run.state ≠ .aborting ∧ d.life = .expanded ∧ d.completed < d.total ∧
              d.total ≤ d.completed + lost then .complete
            else d.life }) ∧
      t = { s with
        reads.inFlight := [], reads.timeouts := t.reads.timeouts, intake.queue := t.intake.queue
        messages.haltRequests := t.messages.haltRequests
        run.stats.readsLost := t.run.stats.readsLost, expander := t.expander, sweep := t.sweep } ∧
      ((∀ step w, s.expander ≠ .sweeping step w) → t.expander = s.expander ∧ t.sweep = s.sweep) ∧
      ∀ step w, s.expander = .sweeping step w →
        (w.abortMark = true → t.expander = .idle ∧
          t.sweep = { s.sweep with taps := s.sweep.taps.modify w.fields.lane fun _ => w.originalTap }) ∧
        (w.abortMark = false → w.endDue = false →
          (∀ x ∈ e :: rest, x.sweepRead = true ∧ x.seq = w.seq) → rest.length + 1 ≤ w.readsOutstanding →
          let misses := w.mismatches + (rest.length + 1)
          let w' := { w with
            readsOutstanding := w.readsOutstanding - (rest.length + 1), mismatches := misses }
          (step ≠ .collect ∨ rest.length + 1 < w.readsOutstanding →
            t.expander = .sweeping step w' ∧ t.sweep = s.sweep) ∧
          (step = .collect → w.readsOutstanding = rest.length + 1 →
            t.sweep = { s.sweep with
              table := s.sweep.table.set w.tapUnderTest.toNat ⟨true, .ofNat 8 misses⟩ w.tapUnderTest.isLt } ∧
            (w.tapUnderTest = w.fields.tapLast ∨ w.stopMark = true →
              t.expander = .sweeping .collect { w' with endDue := true }) ∧
            (w.tapUnderTest ≠ w.fields.tapLast → w.stopMark = false →
              t.expander = .sweeping .settle
                { w' with tapUnderTest := w.tapUnderTest + 1, readsPlaced := 0, mismatches := 0 }))))

/-! ## Data arrivals and strobes -/

/-- The bursts' lanes by format, with inversion (R114 to R118). -/
def Obligations.LaneValuesByFormat : Prop :=
  ∀ (p : PatternSpec) (a : Addr) (L : Fin 32) (b : Fin 8),
    let v := (patternBurst p a)[b].getLsbD L.val
    let base : Bool :=
      match p.fields.format with
      | .uniform => p.slots[p.fields.slot].getLsbD b.val
      | .held => p.slots[p.fields.slot].getLsbD (L.val % 8)
      | .rotated => (p.slots[(p.fields.slot.val + L.val) % 8]'(Nat.mod_lt _ (by decide))).getLsbD b.val
      | .address =>
        p.slots[p.fields.slot].getLsbD b.val != ((a.row + a.col) % 256).testBit (L.val % 8)
    v = if p.fields.invert then !base else base

/-- The compare: which lanes and beats differ, and when the burst miscompares (R122); the byte lane's
result for a sweep read (R123). -/
def Obligations.CompareMasksDiffer : Prop :=
  ∀ (ignore : Word) (captured expected : Burst),
    let r := compareBursts ignore captured expected
    let differs (L : Fin 32) (b : Fin 8) : Prop :=
      ignore.getLsbD L.val = false ∧ captured[b].getLsbD L.val ≠ expected[b].getLsbD L.val
    (∀ L : Fin 32, r.laneMask.getLsbD L.val = true ↔ ∃ b, differs L b) ∧
    (∀ b : Fin 8, r.beatMask.getLsbD b.val = true ↔ ∃ L, differs L b) ∧
    (r.miscompares = true ↔ r.laneMask ≠ 0) ∧ (r.laneMask = 0 ↔ r.beatMask = 0) ∧
    ∀ k : Quad, r.byteLaneFails k = true ↔
      ∃ L : Fin 32, L.val / 8 = k.num ∧ r.laneMask.getLsbD L.val = true

/-- A data arrival that finds no read in flight is stray, and one in a settle period is discarded (R133,
R137). One that answers an ordinary read is counted, and on a miscompare offered and checked against
FAIL_LIMIT (R128, R129, R131); in ABORTING its descriptor's lifecycle stays (R17). With no complete burst
waiting, the arrival is the completion of a burst whose 6 tclk have run, and a burst that opened or
completes in a settle period gives none (R191). That waiting bursts are held and taken oldest first is
log 3, that the arrival stands at the moment of that completion log 10. -/
def Obligations.ArrivalsAreCompared : Prop :=
  (∀ s : State, s.capture.arrivals = [] →
    (∀ b, s.capture.burst = some b → 6 ≤ b.age →
      (b.discard = true ∨ s.run.settle ≠ none →
        exec .dataArrival s = .next { s with capture.burst := none }) ∧
      (b.discard = false → s.run.settle = none →
        exec .dataArrival s = exec .dataArrival { s with
          capture.burst := none, capture.arrivals := [assembleBurst b] })) ∧
    ((∀ b, s.capture.burst = some b → b.age < 6) → exec .dataArrival s = .next s)) ∧
  (∀ (s : State) (x : Burst) (rest : List Burst), s.capture.arrivals = x :: rest →
    (s.run.settle = none → s.reads.inFlight = [] → exec .dataArrival s = .next { s with
      capture.arrivals := rest
      reads.strays := .ofNat 8 (min (s.reads.strays.toNat + 1) 255)
      messages.haltRequests := s.messages.haltRequests ++ [.strayData] }) ∧
    (s.run.settle ≠ none → exec .dataArrival s = .next { s with capture.arrivals := rest })) ∧
  ∀ (s : State) (x : Burst) (bursts : List Burst) (e : InFlight) (rest : List InFlight),
    s.capture.arrivals = x :: bursts → s.run.settle = none → s.reads.inFlight = e :: rest →
    e.sweepRead = false →
    (∀ step w, s.expander ≠ .sweeping step w) →
    let r := compareBursts s.pattern.ignoreMask x (patternBurst e.pattern e.addr)
    let counted (miss : Bool) : State := { s with
      capture.arrivals := bursts
      reads.inFlight := rest
      run.stats.readsCompleted := .ofNat 32 (min (s.run.stats.readsCompleted.toNat + 1) (2 ^ 32 - 1))
      intake.queue := s.intake.queue.map fun d =>
        if d.seq = e.seq then
          { d with
            completed := d.completed + 1
            life :=
              if s.run.state ≠ .aborting ∧ d.life = .expanded ∧ d.completed + 1 = d.total then .complete
              else d.life
            miscompares :=
              if miss then .ofNat 16 (min (d.miscompares.toNat + 1) 65535) else d.miscompares }
        else d }
    let total := min (s.run.stats.miscompares.toNat + 1) 65535
    (r.miscompares = false → exec .dataArrival s = .next (counted false)) ∧
    (r.miscompares = true → exec .dataArrival s = .next { counted true with
      run.stats.miscompares := .ofNat 16 total
      messages.offers := s.messages.offers ++ [⟨e.addr, r.laneMask, r.beatMask, e.seq⟩]
      messages.haltRequests := s.messages.haltRequests ++
        (if s.reads.failLimit ≠ 0 ∧ s.reads.failLimit.toNat ≤ total then [.failLimit] else []) })

/-- A data arrival that answers a read of the SWEEP in hand: a result for the sweep alone, and in
SWEEP_COLLECT the last outstanding result of a tap finishes the tap (R130, R177). Under the abort mark no
tap finishes, and the arrival that empties the list winds the sweep down (R181). The mark that the end is
due is log 13. -/
def Obligations.SweepArrivalIsCounted : Prop :=
  ∀ (s : State) (x : Burst) (bursts : List Burst) (e : InFlight) (rest : List InFlight)
    (step : SweepStep) (w : Sweep),
    s.capture.arrivals = x :: bursts → s.run.settle = none → s.reads.inFlight = e :: rest →
    e.sweepRead = true → s.expander = .sweeping step w → w.seq = e.seq →
    let failed :=
      (compareBursts s.pattern.ignoreMask x (patternBurst e.pattern e.addr)).byteLaneFails w.fields.lane
    let misses := if failed then w.mismatches + 1 else w.mismatches
    let counted : State := { s with
      capture.arrivals := bursts
      reads.inFlight := rest
      run.stats.readsCompleted := .ofNat 32 (min (s.run.stats.readsCompleted.toNat + 1) (2 ^ 32 - 1))
      intake.queue := s.intake.queue.map fun d =>
        if d.seq = e.seq then
          { d with
            completed := d.completed + 1
            life :=
              if s.run.state ≠ .aborting ∧ d.life = .expanded ∧ d.completed + 1 = d.total then .complete
              else d.life }
        else d }
    let w' := { w with readsOutstanding := w.readsOutstanding - 1, mismatches := misses }
    let entered : Vector SweepEntry 32 :=
      s.sweep.table.set w.tapUnderTest.toNat ⟨true, .ofNat 8 misses⟩ w.tapUnderTest.isLt
    (w.abortMark = true →
      (rest = [] → exec .dataArrival s = .next { counted with
        expander := .idle
        sweep.taps := s.sweep.taps.modify w.fields.lane fun _ => w.originalTap }) ∧
      (rest ≠ [] → exec .dataArrival s = .next { counted with expander := .sweeping step w' })) ∧
    (w.abortMark = false → w.endDue = false → step ≠ .collect ∨ 2 ≤ w.readsOutstanding →
      exec .dataArrival s = .next { counted with expander := .sweeping step w' }) ∧
    (w.abortMark = false → w.endDue = false → step = .collect → w.readsOutstanding = 1 →
      w.tapUnderTest = w.fields.tapLast ∨ w.stopMark = true →
      exec .dataArrival s = .next { counted with
        sweep.table := entered, expander := .sweeping .collect { w' with endDue := true } }) ∧
    (w.abortMark = false → w.endDue = false → step = .collect → w.readsOutstanding = 1 →
      w.tapUnderTest ≠ w.fields.tapLast → w.stopMark = false →
      exec .dataArrival s = .next { counted with
        sweep.table := entered
        expander := .sweeping .settle
          { w' with tapUnderTest := w.tapUnderTest + 1, readsPlaced := 0, mismatches := 0 } })

/-- A strobe edge: ignored in a write data phase; outside one it opens a burst, or a byte lane that may
join or has joined captures a beat through its tap; an edge 6 tclk or more after the first finds that burst
complete. A complete burst waits as an arrival, unless it opened or completes in a settle period. What an
assembled burst holds, and what the MT4 drives in a write data phase (R191, R81, with the choices of
log 10). -/
def Obligations.StrobeEdgesCapture : Prop :=
  (∀ (b : OpenBurst) (i : Fin 8) (L : Fin 32),
    (assembleBurst b)[i].getLsbD L.val =
      (((b.beats.get (.ofNum (L.val / 8)))[i.val]?).getD 0).getLsbD (L.val % 8)) ∧
  (∀ s : State,
    ((∀ p ∈ s.reads.writePhases, ¬ (1 ≤ p.remaining ∧ p.remaining ≤ 4)) →
      drivenBeats s = none ∧ ∀ k, drivenEdges s k = []) ∧
    ∀ ahead p behind, s.reads.writePhases = ahead ++ p :: behind →
      (∀ x ∈ ahead, ¬ (1 ≤ x.remaining ∧ x.remaining ≤ 4)) → ∀ j : Fin 4, p.remaining + j.val = 4 →
      drivenBeats s = some
        ((patternBurst p.pattern p.addr)[2 * j.val]'(by omega),
         (patternBurst p.pattern p.addr)[2 * j.val + 1]'(by omega)) ∧
      ∀ k, drivenEdges s k = [16, 48]) ∧
  ∀ (s : State) (k : Quad) (position : Fin 64) (samples : Vector Byte 32),
    let value : Byte := samples[(s.sweep.taps.get k).toNat]'(s.sweep.taps.get k).isLt
    ((∃ p ∈ s.reads.writePhases, 1 ≤ p.remaining ∧ p.remaining ≤ 4) →
      exec (.strobeEdge k position samples) s = .next s) ∧
    ((∀ p ∈ s.reads.writePhases, ¬ (1 ≤ p.remaining ∧ p.remaining ≤ 4)) →
      (s.capture.burst = none → ∃ t, exec (.strobeEdge k position samples) s = .next t ∧
        t = { s with capture.burst := t.capture.burst } ∧
        ∃ b, t.capture.burst = some b ∧ b.position = position.val ∧ b.age = 0 ∧
          b.discard = s.run.settle.isSome ∧
          ∀ j, b.beats.get j = if j = k then [value] else []) ∧
      (∀ b, s.capture.burst = some b → b.position + 384 ≤ 64 * b.age + position.val →
        exec (.strobeEdge k position samples) s = exec (.strobeEdge k position samples) { s with
          capture.burst := none
          capture.arrivals := s.capture.arrivals ++
            (if b.discard = true ∨ s.run.settle ≠ none then [] else [assembleBurst b]) }) ∧
      ∀ b, s.capture.burst = some b → 64 * b.age + position.val < b.position + 384 →
        let l := b.beats.get k
        let late := b.position + 128 < 64 * b.age + position.val
        ((l = [] ∧ late) ∨ 8 ≤ l.length → (∃ j, (b.beats.get j).length ∉ [0, 8]) →
          exec (.strobeEdge k position samples) s = .next s) ∧
        (¬ (l = [] ∧ late) → l.length < 8 →
          (∃ j, 0 < (b.beats.modify k (fun _ => l ++ [value]) |>.get j).length ∧
            (b.beats.modify k (fun _ => l ++ [value]) |>.get j).length < 8) →
          (∀ j, (b.beats.get j).length ≤ 8) →
          exec (.strobeEdge k position samples) s = .next { s with
            capture.burst := some { b with beats := b.beats.modify k fun _ => l ++ [value] } }) ∧
        (¬ (l = [] ∧ late) → l.length = 7 → (∀ j, j ≠ k → (b.beats.get j).length ∈ [0, 8]) →
          b.discard = true ∨ s.run.settle ≠ none →
          exec (.strobeEdge k position samples) s = .next { s with capture.burst := none }) ∧
        (¬ (l = [] ∧ late) → l.length = 7 → (∀ j, j ≠ k → (b.beats.get j).length ∈ [0, 8]) →
          b.discard = false → s.run.settle = none →
          exec (.strobeEdge k position samples) s = .next { s with
            capture.burst := none
            capture.arrivals := s.capture.arrivals ++
              [assembleBurst { b with beats := b.beats.modify k fun _ => l ++ [value] }] }))

/-! ## Placement, sweeps and run control -/

/-- ACCESS_PLACEMENT: the accesses of the burst at the walk position, with their close-after marks, and
the next position of the walk (R28 to R32). That a placement that is not enabled changes nothing is log 1. -/
def Obligations.PlacementWalksTheRegion : Prop :=
  ∀ (s : State) (ahead behind : List Descriptor) (d : Descriptor) (r : Region) (row col : Nat),
    s.expander = .expanding d.seq row col → s.intake.queue = ahead ++ d :: behind →
    (∀ x ∈ ahead ++ behind, x.seq ≠ d.seq) → d.work = .region r →
    r.rowFirst ≤ row → row < r.rowFirst + r.rowCount → r.colFirst ≤ col →
    col < r.colFirst + r.colCount →
    let lastRow := row + 1 = r.rowFirst + r.rowCount
    let lastCol := col + 1 = r.colFirst + r.colCount
    let endsVisit : Prop :=
      match r.walk with
      | .rowMajor => lastCol
      | .columnMajor => 2 ≤ r.rowCount ∨ lastCol
    ∀ mark : Bool → Bool,
    (∀ last, mark last = true ↔
      r.close = .closeEach ∨ (r.close = .closeRowEnd ∧ last = true ∧ endsVisit)) →
    let make (op : AccessOp) (invert last : Bool) : Access :=
      { seq := d.seq, op := op, addr := ⟨r.bank, row, col⟩
        pattern := ⟨⟨r.pattern.slot, r.pattern.format, invert⟩, s.pattern.slots⟩
        closeAfter := mark last, sweepRead := false, bypass := 0 }
    let placed : List Access :=
      match r.kind with
      | .write => [make .write r.pattern.invert true]
      | .read => [make .read r.pattern.invert true]
      | .checkWrite => [make .read r.pattern.invert false, make .write (!r.pattern.invert) true]
    let works := s.run.state = .running ∨ s.run.state = .draining
    let room := s.window.length + placed.length ≤ 16
    let moved (row' col' : Nat) : Host.Outcome State Fault Refusal :=
      .next { s with window := s.window ++ placed, expander := .expanding d.seq row' col' }
    (¬ works ∨ ¬ room → exec .accessPlacement s = .next s) ∧
    (works → room →
      (r.walk = .rowMajor →
        (¬ lastCol → exec .accessPlacement s = moved row (col + 1)) ∧
        (lastCol → ¬ lastRow → exec .accessPlacement s = moved (row + 1) r.colFirst)) ∧
      (r.walk = .columnMajor →
        (¬ lastRow → exec .accessPlacement s = moved (row + 1) col) ∧
        (lastRow → ¬ lastCol → exec .accessPlacement s = moved r.rowFirst (col + 1))) ∧
      (lastRow → lastCol → exec .accessPlacement s = .next (examine { s with
        window := s.window ++ placed
        intake.queue := ahead ++ { d with life := .expanded } :: behind
        expander := .idle })))

/-- SWEEP_TAP_SET and SWEEP_READ_PLACEMENT (R175, R176, R179, R180). That a step that is not enabled
changes nothing is log 1. -/
def Obligations.SweepStepsAdvance : Prop :=
  ∀ (s : State) (w : Sweep),
    let works := s.run.state = .running ∨ s.run.state = .draining
    (s.expander = .sweeping .settle w →
      (works → s.reads.inFlight = [] → w.stopMark = false →
        exec .sweepTapSet s = .next { s with
          sweep.taps := s.sweep.taps.modify w.fields.lane fun _ => w.tapUnderTest
          expander := .sweeping .reads w }) ∧
      (¬ works ∨ s.reads.inFlight ≠ [] ∨ w.stopMark = true → exec .sweepTapSet s = .next s)) ∧
    (s.expander = .sweeping .reads w →
      (works → s.window.length < 16 → exec .sweepReadPlacement s = .next { s with
        window := s.window ++
          [{ seq := w.seq, op := .read, addr := w.fields.addr
             pattern := ⟨w.fields.pattern, s.pattern.slots⟩
             closeAfter := false, sweepRead := true, bypass := 0 }]
        expander := .sweeping (if w.readsPlaced + 1 = w.fields.readsPerTap then .collect else .reads)
          { w with readsPlaced := w.readsPlaced + 1, readsOutstanding := w.readsOutstanding + 1 } }) ∧
      (¬ works ∨ 16 ≤ s.window.length → exec .sweepReadPlacement s = .next s))

/-- SWEEP_END: the longest run of taps that are TESTED with count 0, the lowest of equals; the tap left in
force; the SWEEP COMPLETE (R178, R179). The mark that the end is due, and the empty in-flight list, are
log 13. -/
def Obligations.SweepEndsWithWindow : Prop :=
  ∀ (s : State) (step : SweepStep) (w : Sweep), s.expander = .sweeping step w →
    (s.run.state = .running ∨ s.run.state = .draining) → s.reads.inFlight = [] →
    (w.endDue = true ∨ (step = .settle ∧ w.stopMark = true)) →
    let isRun (first width : Nat) : Prop :=
      1 ≤ width ∧ w.fields.tapFirst.toNat ≤ first ∧ first + width ≤ w.fields.tapLast.toNat + 1 ∧
        ∀ t, first ≤ t → t < first + width → sweepEntryAt s (.ofNat 5 t) = ⟨true, 0⟩
    let ended (result : SweepResult) : Host.Outcome State Fault Refusal :=
      .next (examine { s with
        sweep.taps := s.sweep.taps.modify w.fields.lane fun _ => result.tapLeft
        intake.queue := s.intake.queue.map fun d =>
          if d.seq = w.seq then
            { d with life := .complete, cutShort := w.stopMark, sweepResult := result } else d
        expander := .idle })
    (∀ first width, isRun first width →
      (∀ f n, isRun f n → n < width ∨ (n = width ∧ first ≤ f)) →
      exec .sweepEnd s = ended
        { found := true, first := .ofNat 5 first, last := .ofNat 5 (first + width - 1)
          width := .ofNat 6 width
          tapLeft :=
            if w.fields.applyWindow = true ∧ w.stopMark = false then
              .ofNat 5 ((first + (first + width - 1)) / 2)
            else w.originalTap }) ∧
    ((∀ first width, ¬ isRun first width) → exec .sweepEnd s = ended ⟨false, 0, 0, 0, w.originalTap⟩)

/-- HALT_REQUEST in each run state (R157); DRAIN_END and ABORT_END when their conditions hold (R161,
R162). The requests on their way are log 6; an event that is not enabled changes nothing by log 1. -/
def Obligations.RunStateEvents : Prop :=
  ∀ s : State,
    (∀ c ∈ s.messages.haltRequests,
      let taken : State := { s with messages.haltRequests := s.messages.haltRequests.erase c }
      let halted (drain : Bool) : State := { taken with
        run.state := .halted, run.haltCause := some c, run.drainRequested := drain
        run.flags := s.run.flags ||| 0b000100#6 }
      (s.run.state = .running → exec (.haltRequest c) s = .next (halted false)) ∧
      (s.run.state = .draining → exec (.haltRequest c) s = .next (halted true)) ∧
      (s.run.state ≠ .running → s.run.state ≠ .draining → exec (.haltRequest c) s = .next taken)) ∧
    (∀ c, c ∉ s.messages.haltRequests → exec (.haltRequest c) s = .next s) ∧
    (let drainsNow : Prop := s.run.state = .draining ∧ s.expander = .idle ∧
      (∀ d ∈ s.intake.queue, d.life = .waiting) ∧ s.window = [] ∧ s.reads.inFlight = [] ∧
      s.reads.writePhases = [] ∧ s.arbiter.pendingClose = []
    (drainsNow → exec .drainEnd s = .next { s with
      run.state := .idle, run.flags := s.run.flags ||| 0b001000#6 }) ∧
    (¬ drainsNow → exec .drainEnd s = .next s)) ∧
    (let endsNow : Prop := s.run.state = .aborting ∧ s.expander = .idle ∧ s.reads.inFlight = [] ∧
      s.reads.writePhases = [] ∧
      ∀ b : BankAddr, isPresent s b.rank = true → (bankAt s b).state = .closed
    (endsNow → exec .abortEnd s = .next { s with
      intake.queue := []
      run.abortDiscards := .ofNat 8 (min (s.run.abortDiscards.toNat + s.intake.queue.length) 255)
      refreshHold := ⟨false, false⟩
      ranks := .tabulate fun r =>
        if s.refreshHold.get r then
          { rankAt s r with interval := (rankAt s r).interval.release } else rankAt s r
      run.state := .idle, run.flags := s.run.flags ||| 0b001000#6 }) ∧
    (¬ endsNow → exec .abortEnd s = .next s))

/-- RETIREMENT of a COMPLETE head, with the fields of its completion record (R165, R166). A retirement
that is not enabled changes nothing by log 1. -/
def Obligations.RetirementPostsRecord : Prop :=
  ∀ s : State,
    (∀ d rest, s.intake.queue = d :: rest → d.life = .complete → s.run.completions.length < 16 →
      (s.run.state = .running ∨ s.run.state = .draining ∨ s.run.state = .halted) →
      exec .retirement s = .next { s with
        intake.queue := rest
        run.completions := s.run.completions ++
          [{ seq := d.seq
             kind := match d.work with
               | .region r => (match r.kind with
                 | .write => .write | .read => .read | .checkWrite => .checkWrite)
               | .pause _ _ => .pause
               | .marker _ => .marker
               | .sweep _ => .sweep
             status :=
               if d.cutShort = true then .cutShort else if 1 ≤ d.lost.toNat then .lost
               else if 1 ≤ d.miscompares.toNat then .miscompare else .done
             issued := d.issued, miscompares := d.miscompares, lost := d.lost
             detail := match d.work with
               | .marker code => .marker code
               | .sweep _ => .sweep d.sweepResult
               | _ => .none }]
        run.flags := s.run.flags ||| (match d.work with
          | .marker _ => 0b000011#6
          | _ => 0b000001#6) }) ∧
    ((s.intake.queue = [] ∨ (∃ d rest, s.intake.queue = d :: rest ∧ d.life ≠ .complete) ∨
        16 ≤ s.run.completions.length ∨ s.run.state = .idle ∨ s.run.state = .aborting) →
      exec .retirement s = .next s)
end

