-- ==== Sys2Proof/Laws/Ops.lean ====
section
/-! SUPPORT. What the shared operations do: saturating counters, per-rank and per-bank values, holds,
descriptors changed by seq, and lists. -/

namespace Sys2Proof.Machine

/-! ## Counters -/

/-- A saturating counter counts up to its top. -/
theorem satInc_eq {w : Nat} (x : BitVec w) : satInc x = .ofNat w (min (x.toNat + 1) (2 ^ w - 1)) := by
  unfold satInc
  have hx := x.isLt
  split
  · next h =>
    subst h
    apply BitVec.eq_of_toNat_eq
    simp [BitVec.toNat_allOnes]
  · next h =>
    have : x.toNat ≠ 2 ^ w - 1 := by
      intro h2
      apply h
      apply BitVec.eq_of_toNat_eq
      simpa [BitVec.toNat_allOnes] using h2
    apply BitVec.eq_of_toNat_eq
    have h1 : min (x.toNat + 1) (2 ^ w - 1) = x.toNat + 1 := by omega
    rw [h1]
    simp [BitVec.toNat_add]

theorem satAdd_eq {w : Nat} (x : BitVec w) (n : Nat) :
    satAdd x n = .ofNat w (min (x.toNat + n) (2 ^ w - 1)) := by
  unfold satAdd
  have := Nat.two_pow_pos w
  split
  · rw [Nat.min_eq_left (by omega)]
  · rw [Nat.min_eq_right (by omega)]
    apply BitVec.eq_of_toNat_eq
    simp [BitVec.toNat_allOnes]

theorem satInc_toNat {w : Nat} (x : BitVec w) : (satInc x).toNat = min (x.toNat + 1) (2 ^ w - 1) := by
  have := x.isLt
  rw [satInc_eq, BitVec.toNat_ofNat, Nat.mod_eq_of_lt (by omega)]

/-! ## Timers -/

/-- An expiry leaves what remains. -/
@[simp] theorem Timer.remaining_expire (t : Timer) : t.expire.remaining = t.remaining := by
  unfold Timer.expire
  split <;> rfl

/-- One tclk takes one from what remains, down to 0. -/
@[simp] theorem Timer.remaining_count (t : Timer) : t.count.remaining = t.remaining - 1 := by
  match t with
  | .stopped => rfl
  | .running 0 => rfl
  | .running (n + 1) => rfl

/-- A start leaves the larger of what remained and the start value. -/
@[simp] theorem Timer.remaining_extend (t : Timer) (v : Nat) : (t.extend v).remaining = max t.remaining v := rfl

/-! ## Per-rank and per-index values -/

@[simp] theorem PerRank.get_modify {α : Type} (p : PerRank α) (r q : Rank) (f : α → α) :
    (p.modify r f).get q = if q = r then f (p.get q) else p.get q := by
  cases r <;> cases q <;> rfl

@[simp] theorem PerQuad.get_modify {α : Type} (p : PerQuad α) (k j : Quad) (f : α → α) :
    (p.modify k f).get j = if j = k then f (p.get j) else p.get j := by
  cases k <;> cases j <;> rfl

@[simp] theorem PerRank.get_map {α β : Type} (f : α → β) (p : PerRank α) (r : Rank) :
    (p.map f).get r = f (p.get r) := by
  cases r <;> rfl

@[simp] theorem PerQuad.get_map {α β : Type} (f : α → β) (p : PerQuad α) (k : Quad) :
    (p.map f).get k = f (p.get k) := by
  cases k <;> rfl

@[simp] theorem PerRank.get_tabulate {α : Type} (f : Rank → α) (r : Rank) :
    (PerRank.tabulate f).get r = f r := by
  cases r <;> rfl

@[simp] theorem PerRank.get_all {α : Type} (x : α) (r : Rank) : (PerRank.all x).get r = x := by
  cases r <;> rfl

@[simp] theorem PerQuad.get_all {α : Type} (x : α) (k : Quad) : (PerQuad.all x).get k = x := by
  cases k <;> rfl

theorem PerRank.ext_get {α : Type} {p q : PerRank α} (h : ∀ r, p.get r = q.get r) : p = q := by
  have h0 := h .r0
  have h1 := h .r1
  cases p
  cases q
  simp_all [PerRank.get]

theorem PerQuad.ext_get {α : Type} {p q : PerQuad α} (h : ∀ k, p.get k = q.get k) : p = q := by
  have h0 := h .q0
  have h1 := h .q1
  have h2 := h .q2
  have h3 := h .q3
  cases p
  cases q
  simp_all [PerQuad.get]

theorem Banks.ext_get {p q : Banks}
    (h : ∀ b : BankAddr, ((p.get b.rank).get b.bankSet).get b.bank = ((q.get b.rank).get b.bankSet).get b.bank) :
    p = q :=
  PerRank.ext_get fun r => PerQuad.ext_get fun g => PerQuad.ext_get fun b => h ⟨r, g, b⟩

theorem BankAddr.eq_iff (b c : BankAddr) :
    c = b ↔ c.rank = b.rank ∧ c.bankSet = b.bankSet ∧ c.bank = b.bank := by
  cases b
  cases c
  simp

/-! ## Banks and ranks -/

/-- A change to one bank is seen at that bank alone. -/
theorem bankAt_modifyBank (b c : BankAddr) (f : BankRecord → BankRecord) (s : State) :
    bankAt (modifyBank b f s) c = if c = b then f (bankAt s c) else bankAt s c := by
  simp only [bankAt, modifyBank, PerRank.get_modify, BankAddr.eq_iff]
  by_cases h1 : c.rank = b.rank <;> by_cases h2 : c.bankSet = b.bankSet <;>
    by_cases h3 : c.bank = b.bank <;> simp [h1, h2, h3]

theorem bankAt_modifyRankBanks (r : Rank) (c : BankAddr) (f : BankRecord → BankRecord) (s : State) :
    bankAt (modifyRankBanks r f s) c = if c.rank = r then f (bankAt s c) else bankAt s c := by
  simp only [bankAt, modifyRankBanks, PerRank.get_modify]
  by_cases h : c.rank = r <;> simp [h]

theorem bankAt_mapBanks (c : BankAddr) (f : BankRecord → BankRecord) (s : State) :
    bankAt (mapBanks f s) c = f (bankAt s c) := by
  simp [bankAt, mapBanks]

theorem rankAt_modifyRank (r q : Rank) (f : RankRecord → RankRecord) (s : State) :
    rankAt (modifyRank r f s) q = if q = r then f (rankAt s q) else rankAt s q := by
  simp [rankAt, modifyRank]

/-- A bank change that writes what the bank already holds changes nothing. -/
theorem modifyBank_id (b : BankAddr) (f : BankRecord → BankRecord) (s : State)
    (h : f (bankAt s b) = bankAt s b) : modifyBank b f s = s := by
  have : (modifyBank b f s).banks = s.banks := by
    apply Banks.ext_get
    intro c
    have := bankAt_modifyBank b c f s
    simp only [bankAt] at this h
    rw [this]
    split
    · next hc => subst hc; exact h
    · rfl
  have hs : modifyBank b f s = { s with banks := (modifyBank b f s).banks } := rfl
  rw [hs, this]

theorem modifyRank_id (r : Rank) (f : RankRecord → RankRecord) (s : State)
    (h : f (rankAt s r) = rankAt s r) : modifyRank r f s = s := by
  have : (modifyRank r f s).ranks = s.ranks := by
    apply PerRank.ext_get
    intro q
    have := rankAt_modifyRank r q f s
    simp only [rankAt] at this h
    rw [this]
    split
    · next hc => subst hc; exact h
    · rfl
  have hs : modifyRank r f s = { s with ranks := (modifyRank r f s).ranks } := rfl
  rw [hs, this]

/-- Two changes to one bank are one change. -/
theorem modifyBank_modifyBank (b : BankAddr) (f g : BankRecord → BankRecord) (s : State) :
    modifyBank b f (modifyBank b g s) = modifyBank b (f ∘ g) s := by
  have h : (modifyBank b f (modifyBank b g s)).banks = (modifyBank b (f ∘ g) s).banks := by
    apply Banks.ext_get
    intro c
    have h1 := bankAt_modifyBank b c f (modifyBank b g s)
    have h2 := bankAt_modifyBank b c g s
    have h3 := bankAt_modifyBank b c (f ∘ g) s
    simp only [bankAt] at h1 h2 h3
    rw [h1, h3, h2]
    split <;> rfl
  have hs : modifyBank b f (modifyBank b g s) =
      { s with banks := (modifyBank b f (modifyBank b g s)).banks } := rfl
  rw [hs, h]
  rfl

/-- A rank's bank records are those of its sixteen banks. -/
theorem mem_rankBankRecords (s : State) (r : Rank) (k : BankRecord) :
    k ∈ rankBankRecords s r ↔ ∃ b : BankAddr, b.rank = r ∧ bankAt s b = k := by
  constructor
  · intro h
    simp only [rankBankRecords, PerQuad.toList, List.flatMap_cons, List.flatMap_nil, List.append_nil,
      List.cons_append, List.nil_append, List.mem_cons, List.not_mem_nil, or_false] at h
    rcases h with h | h | h | h | h | h | h | h | h | h | h | h | h | h | h | h
    · exact ⟨⟨r, .q0, .q0⟩, rfl, h.symm⟩
    · exact ⟨⟨r, .q0, .q1⟩, rfl, h.symm⟩
    · exact ⟨⟨r, .q0, .q2⟩, rfl, h.symm⟩
    · exact ⟨⟨r, .q0, .q3⟩, rfl, h.symm⟩
    · exact ⟨⟨r, .q1, .q0⟩, rfl, h.symm⟩
    · exact ⟨⟨r, .q1, .q1⟩, rfl, h.symm⟩
    · exact ⟨⟨r, .q1, .q2⟩, rfl, h.symm⟩
    · exact ⟨⟨r, .q1, .q3⟩, rfl, h.symm⟩
    · exact ⟨⟨r, .q2, .q0⟩, rfl, h.symm⟩
    · exact ⟨⟨r, .q2, .q1⟩, rfl, h.symm⟩
    · exact ⟨⟨r, .q2, .q2⟩, rfl, h.symm⟩
    · exact ⟨⟨r, .q2, .q3⟩, rfl, h.symm⟩
    · exact ⟨⟨r, .q3, .q0⟩, rfl, h.symm⟩
    · exact ⟨⟨r, .q3, .q1⟩, rfl, h.symm⟩
    · exact ⟨⟨r, .q3, .q2⟩, rfl, h.symm⟩
    · exact ⟨⟨r, .q3, .q3⟩, rfl, h.symm⟩
  · rintro ⟨⟨r', g, b⟩, rfl, rfl⟩
    cases g <;> cases b <;> simp [rankBankRecords, bankAt, PerQuad.toList, PerQuad.get]

theorem mem_allBanks (b : BankAddr) : b ∈ allBanks := by
  rcases b with ⟨r, g, k⟩
  cases r <;> cases g <;> cases k <;> decide

theorem mem_bothRanks (r : Rank) : r ∈ bothRanks := by
  cases r <;> decide

theorem mem_presentRanks (s : State) (r : Rank) : r ∈ presentRanks s ↔ isPresent s r = true := by
  simp [presentRanks, mem_bothRanks]

/-! ## Holds -/

/-- A change to one hold is seen at that hold alone. -/
theorem Holds.get_modify (h : Holds) (i j : HoldId) (f : Timer → Timer) :
    (h.modify i f).get j = if j = i then f (h.get j) else h.get j := by
  cases i <;> cases j <;> simp [Holds.modify, Holds.get] <;>
    (repeat' split) <;> simp_all [PerQuad.get_modify]

theorem Holds.get_map (h : Holds) (i : HoldId) (f : Timer → Timer) : (h.map f).get i = f (h.get i) := by
  cases i <;> simp [Holds.map, Holds.get]

/-! ## Lists -/

/-- A map that changes only the entries a test holds of leaves a list in which it holds of none. -/
theorem map_if_none {α : Type} (p : α → Prop) [DecidablePred p] (f : α → α) (l : List α)
    (h : ∀ x ∈ l, ¬ p x) : (l.map fun x => if p x then f x else x) = l := by
  induction l with
  | nil => rfl
  | cons x xs ih =>
    have hx : ¬ p x := h x (by simp)
    simp only [List.map_cons, if_neg hx]
    rw [ih fun y hy => h y (by simp [hy])]

/-- The same map on a list in which the test holds of one entry. -/
theorem map_if_one {α : Type} (p : α → Prop) [DecidablePred p] (f : α → α) (ahead behind : List α)
    (x : α) (hx : p x) (h : ∀ y ∈ ahead ++ behind, ¬ p y) :
    ((ahead ++ x :: behind).map fun y => if p y then f y else y) = ahead ++ f x :: behind := by
  rw [List.map_append, List.map_cons, if_pos hx,
    map_if_none p f ahead fun y hy => h y (by simp [hy]),
    map_if_none p f behind fun y hy => h y (by simp [hy])]

/-- The held descriptor with a seq that no other has is the one changed. -/
theorem modifyDescriptor_one (q : Seq) (f : Descriptor → Descriptor) (s : State)
    (ahead behind : List Descriptor) (d : Descriptor) (hs : s.intake.queue = ahead ++ d :: behind)
    (hd : d.seq = q) (h : ∀ x ∈ ahead ++ behind, x.seq ≠ q) :
    modifyDescriptor q f s = { s with intake.queue := ahead ++ f d :: behind } := by
  unfold modifyDescriptor
  rw [hs, map_if_one (fun x : Descriptor => x.seq = q) f ahead behind d hd h]

theorem dropFirst_eq_erase {α : Type} [DecidableEq α] (x : α) (l : List α) :
    dropFirst x l = l.erase x := by
  induction l with
  | nil => rfl
  | cons y ys ih =>
    simp only [dropFirst, List.erase_cons, ih]
    by_cases h : y = x <;> simp [h]

/-- Phases that end at least 4 tclk apart and within 67 tclk are at most 17 (R135). -/
theorem WritePhasesSpaced.length_le {s : State} (h : WritePhasesSpaced s) : s.reads.writePhases.length ≤ 17 := by
  have key : ∀ (l : List WritePhase) (lo : Nat), l.Pairwise (fun p q => p.remaining + 4 ≤ q.remaining) →
      (∀ p ∈ l, p.remaining ≤ 67) → (∀ p ∈ l, lo ≤ p.remaining) → lo ≤ 71 → lo + 4 * l.length ≤ 71 := by
    intro l
    induction l with
    | nil =>
      intro lo _ _ _ h
      simpa using h
    | cons x xs ih =>
      intro lo hp hm hl _
      have hx := hm x (by simp)
      have hlo := hl x (by simp)
      have := ih (x.remaining + 4) hp.of_cons (fun p hp' => hm p (by simp [hp']))
        (fun p hp' => List.rel_of_pairwise_cons hp hp') (by omega)
      simp only [List.length_cons]
      omega
  have := key s.reads.writePhases 0 h.1 (fun p hp => (h.2 p hp).1) (by simp) (by omega)
  omega

theorem length_takeFromWindow (counts : Access → Bool) (a : Access) (seen : List BankAddr)
    (l : List Access) (h : a ∈ l) : (takeFromWindow counts a seen l).length + 1 = l.length := by
  induction l generalizing seen with
  | nil => simp at h
  | cons x xs ih =>
    unfold takeFromWindow
    by_cases hx : x = a
    · simp [hx]
    · have : a ∈ xs := by
        rcases List.mem_cons.mp h with h | h
        · exact absurd h.symm hx
        · exact h
      simp [hx, ih _ this]

end Sys2Proof.Machine
end

