-- ==== Sys2Proof/Laws/Ladder.lean ====
section
/-! SUPPORT. What the functions that build the ladder's rungs answer: the next command of an access, the
refresh work of a rank, the head accesses in window order, and the banks in idle order. -/

namespace Sys2Proof.Machine

/-! ## Next commands and refresh work -/

theorem BankState.isOpened_iff (k : BankState) : k.isOpened = true ↔ ∃ row, k = .opened row := by
  cases k <;> simp [BankState.isOpened]

theorem BankState.isOpenOrOpening_iff (k : BankState) :
    k.isOpenOrOpening = true ↔ (∃ row, k = .opened row) ∨ ∃ row, k = .opening row := by
  cases k <;> simp [BankState.isOpenOrOpening]

theorem starved_iff (s : State) (a : Access) : starved s a = true ↔ tclk s .starveLimit ≤ a.bypass := by
  simp only [starved, decide_eq_true_eq]
  exact Iff.rfl

theorem rankHasWork_iff (s : State) (r : Rank) :
    rankHasWork s r = true ↔ ∃ a ∈ s.window, a.addr.bank.rank = r := by
  simp [rankHasWork]

theorem bankHasWork_iff (s : State) (b : BankAddr) :
    bankHasWork s b = true ↔ ∃ a ∈ s.window, a.addr.bank = b := by
  simp [bankHasWork]

/-- The next command of an access is an OPEN of its row, a pending close, the access, or a conflict close. -/
theorem nextCommand_eq_some (s : State) (a : Access) (c : ArrayCommand) :
    nextCommand s a = some c ↔
      ((bankAt s a.addr.bank).state = .closed ∧ c = .openRow a.addr.bank a.addr.row) ∨
        ((∃ row, (bankAt s a.addr.bank).state = .opened row) ∧
          (bankAt s a.addr.bank).closePending = true ∧ c = .close a.addr.bank) ∨
        ((bankAt s a.addr.bank).closePending = false ∧
          ∃ row, (bankAt s a.addr.bank).state = .opened row ∧
            ((row = a.addr.row ∧ c = match a.op with | .read => .read a | .write => .write a) ∨
              (row ≠ a.addr.row ∧ c = .close a.addr.bank))) := by
  unfold nextCommand Access.command
  cases hst : (bankAt s a.addr.bank).state with
  | opened row =>
    cases hp : (bankAt s a.addr.bank).closePending <;> by_cases hr : row = a.addr.row <;> simp [hr] <;>
      exact eq_comm
  | closed =>
    simp only [true_and, reduceCtorEq, exists_const, false_and, and_false, or_false, Option.some.injEq]
    exact eq_comm
  | _ => simp

/-- Refresh work: nothing with a bank UNKNOWN, CLOSE_RANK with a bank OPEN or OPENING, REFRESH with every
bank CLOSED. -/
theorem refreshWork_eq_some (s : State) (r : Rank) (c : ArrayCommand) :
    refreshWork s r = some c ↔
      (∀ k ∈ rankBankRecords s r, k.state ≠ .unknown) ∧
        (((∃ k ∈ rankBankRecords s r, k.state.isOpenOrOpening = true) ∧ c = .closeRank r) ∨
          ((∀ k ∈ rankBankRecords s r, k.state = .closed) ∧ c = .refresh r)) := by
  have hclosed : (∀ k ∈ rankBankRecords s r, k.state = .closed) →
      ¬ ∃ k ∈ rankBankRecords s r, k.state.isOpenOrOpening = true := by
    rintro h ⟨k, hk, ho⟩
    rw [h k hk] at ho
    cases ho
  simp only [refreshWork, rankAllClosed, List.any_eq_true, List.all_eq_true, beq_iff_eq]
  split
  · next h =>
    obtain ⟨k, hk, hu⟩ := h
    simp only [reduceCtorEq, false_iff]
    exact fun g => g.1 k hk hu
  · next h =>
    have hu : ∀ k ∈ rankBankRecords s r, k.state ≠ .unknown := fun k hk e => h ⟨k, hk, e⟩
    split
    · next ho =>
      simp only [Option.some.injEq]
      exact ⟨fun e => ⟨hu, .inl ⟨ho, e.symm⟩⟩,
        fun g => g.2.elim (fun k => k.2.symm) fun k => absurd ho (hclosed k.1)⟩
    · next ho =>
      split
      · next hc =>
        simp only [Option.some.injEq]
        exact ⟨fun e => ⟨hu, .inr ⟨hc, e.symm⟩⟩,
          fun g => g.2.elim (fun k => absurd k.1 ho) fun k => k.2.symm⟩
      · next hc =>
        simp only [reduceCtorEq, false_iff]
        rintro ⟨_, ⟨h1, _⟩ | ⟨h1, _⟩⟩
        · exact ho h1
        · exact hc h1

/-! ## Banks in idle order (R93) -/

theorem mem_insertByIdle (s : State) (b c : BankAddr) (l : List BankAddr) :
    c ∈ insertByIdle s b l ↔ c = b ∨ c ∈ l := by
  induction l with
  | nil => simp [insertByIdle]
  | cons x xs ih =>
    unfold insertByIdle
    split
    · simp
    · simp [ih, or_left_comm]

theorem mem_foldr_insertByIdle (s : State) (b : BankAddr) (l : List BankAddr) :
    b ∈ l.foldr (insertByIdle s) [] ↔ b ∈ l := by
  induction l with
  | nil => simp
  | cons x xs ih => simp [mem_insertByIdle, ih]

/-- Banks taken in the order of their numbers come out longest idle first, then lowest number first. -/
theorem pairwise_foldr_insertByIdle (s : State) (l : List BankAddr)
    (hl : l.Pairwise fun b c => bankNumber b < bankNumber c) :
    (l.foldr (insertByIdle s) []).Pairwise fun b c =>
      (bankAt s c).idle < (bankAt s b).idle ∨
        ((bankAt s b).idle = (bankAt s c).idle ∧ bankNumber b < bankNumber c) := by
  have insert : ∀ (b : BankAddr) (m : List BankAddr), (∀ c ∈ m, bankNumber b < bankNumber c) →
      (m.Pairwise fun b c => (bankAt s c).idle < (bankAt s b).idle ∨
        ((bankAt s b).idle = (bankAt s c).idle ∧ bankNumber b < bankNumber c)) →
      (insertByIdle s b m).Pairwise fun b c => (bankAt s c).idle < (bankAt s b).idle ∨
        ((bankAt s b).idle = (bankAt s c).idle ∧ bankNumber b < bankNumber c) := by
    intro b m
    induction m with
    | nil => simp [insertByIdle]
    | cons x xs ih =>
      intro hb hp
      unfold insertByIdle
      split
      · next hx =>
        refine List.pairwise_cons.mpr ⟨fun c hc => ?_, hp⟩
        have hbc := hb c hc
        rcases List.mem_cons.mp hc with rfl | hc
        · omega
        · have hxc := List.rel_of_pairwise_cons hp hc
          omega
      · next hx =>
        refine List.pairwise_cons.mpr ⟨fun c hc => ?_, ih (fun c hc => hb c (by simp [hc])) hp.of_cons⟩
        rcases (mem_insertByIdle s b c xs).mp hc with rfl | hc
        · exact .inl (by omega)
        · exact List.rel_of_pairwise_cons hp hc
  induction l with
  | nil => simp
  | cons x xs ih =>
    refine insert x _ (fun c hc => ?_) (ih hl.of_cons)
    exact List.rel_of_pairwise_cons hl ((mem_foldr_insertByIdle s c xs).mp hc)

/-! ## Head accesses in window order (R84) -/

/-- Place `i` of a list of accesses holds `a`, and no access to its bank stands ahead of it. -/
def HeadAt (l : List Access) (i : Nat) (a : Access) : Prop :=
  l[i]? = some a ∧ ∀ j x, j < i → l[j]? = some x → x.addr.bank ≠ a.addr.bank

theorem headAt_cons_zero (x a : Access) (l : List Access) : HeadAt (x :: l) 0 a ↔ x = a := by
  simp [HeadAt]

theorem headAt_cons_succ (x a : Access) (l : List Access) (i : Nat) :
    HeadAt (x :: l) (i + 1) a ↔ HeadAt l i a ∧ x.addr.bank ≠ a.addr.bank := by
  constructor
  · rintro ⟨h, hb⟩
    refine ⟨⟨by simpa using h, fun j y hj hy => hb (j + 1) y (by omega) (by simpa using hy)⟩, ?_⟩
    exact hb 0 x (by omega) rfl
  · rintro ⟨⟨h, hb⟩, hx⟩
    refine ⟨by simpa using h, fun j y hj hy => ?_⟩
    cases j with
    | zero =>
      simp only [List.getElem?_cons_zero, Option.some.injEq] at hy
      exact hy ▸ hx
    | succ j => exact hb j y (by omega) (by simpa using hy)

/-- What a function answers on the head accesses whose bank is not in `seen`: one answer a place, in
window order. -/
theorem headsFrom_filterMap {β : Type} (g : Access → Option β) (l : List Access) (seen : List BankAddr) :
    ∃ places : List Nat, places.Pairwise (· < ·) ∧
      (∀ i, i ∈ places ↔ ∃ a c, HeadAt l i a ∧ a.addr.bank ∉ seen ∧ g a = some c) ∧
      List.Forall₂ (fun i c => ∃ a, HeadAt l i a ∧ a.addr.bank ∉ seen ∧ g a = some c) places
        ((headsFrom seen l).filterMap g) := by
  induction l generalizing seen with
  | nil => exact ⟨[], by simp, by simp [HeadAt], by simp [headsFrom]⟩
  | cons x xs ih =>
    have mono : ∀ pl : List Nat, pl.Pairwise (· < ·) → (pl.map (· + 1)).Pairwise (· < ·) := fun pl h => by
      rw [List.pairwise_map]
      exact h.imp fun h => by omega
    unfold headsFrom
    by_cases hs : x.addr.bank ∈ seen
    · rw [if_pos hs]
      obtain ⟨pl, hlt, hmem, hall⟩ := ih seen
      refine ⟨pl.map (· + 1), mono pl hlt, fun i => ?_, ?_⟩
      · cases i with
        | zero => simp [headAt_cons_zero, hs]
        | succ i =>
          simp only [List.mem_map, Nat.add_right_cancel_iff, exists_eq_right, hmem, headAt_cons_succ]
          exact ⟨fun ⟨a, c, h, hn, hg⟩ => ⟨a, c, ⟨h, fun e => hn (e ▸ hs)⟩, hn, hg⟩,
            fun ⟨a, c, h, hn, hg⟩ => ⟨a, c, h.1, hn, hg⟩⟩
      · rw [List.forall₂_map_left_iff]
        exact hall.imp fun i c ⟨a, h, hn, hg⟩ =>
          ⟨a, (headAt_cons_succ x a xs i).mpr ⟨h, fun e => hn (e ▸ hs)⟩, hn, hg⟩
    · rw [if_neg hs]
      obtain ⟨pl, hlt, hmem, hall⟩ := ih (x.addr.bank :: seen)
      have lift : ∀ i (a : Access), HeadAt xs i a ∧ a.addr.bank ∉ x.addr.bank :: seen ↔
          HeadAt (x :: xs) (i + 1) a ∧ a.addr.bank ∉ seen := by
        intro i a
        rw [headAt_cons_succ, List.mem_cons, not_or]
        exact ⟨fun ⟨h, hx, hn⟩ => ⟨⟨h, Ne.symm hx⟩, hn⟩, fun ⟨⟨h, hx⟩, hn⟩ => ⟨h, Ne.symm hx, hn⟩⟩
      have hsucc : ∀ i, i + 1 ∈ pl.map (· + 1) ↔
          ∃ a c, HeadAt (x :: xs) (i + 1) a ∧ a.addr.bank ∉ seen ∧ g a = some c := by
        intro i
        simp only [List.mem_map, Nat.add_right_cancel_iff, exists_eq_right, hmem, ← and_assoc, lift]
      have hall' : List.Forall₂
          (fun i c => ∃ a, HeadAt (x :: xs) i a ∧ a.addr.bank ∉ seen ∧ g a = some c) (pl.map (· + 1))
          ((headsFrom (x.addr.bank :: seen) xs).filterMap g) := by
        rw [List.forall₂_map_left_iff]
        refine hall.imp fun i c ⟨a, h, hn, hg⟩ => ?_
        have hl := (lift i a).mp ⟨h, hn⟩
        exact ⟨a, hl.1, hl.2, hg⟩
      cases hg : g x with
      | none =>
        rw [List.filterMap_cons_none hg]
        refine ⟨pl.map (· + 1), mono pl hlt, fun i => ?_, hall'⟩
        cases i with
        | zero => simp [headAt_cons_zero, hg]
        | succ i => exact hsucc i
      | some c =>
        rw [List.filterMap_cons_some hg]
        refine ⟨0 :: pl.map (· + 1), ?_, fun i => ?_,
          .cons ⟨x, (headAt_cons_zero x x xs).mpr rfl, hs, hg⟩ hall'⟩
        · exact List.pairwise_cons.mpr ⟨by simp, mono pl hlt⟩
        · cases i with
          | zero => simp [headAt_cons_zero, hg, hs]
          | succ i =>
            rw [List.mem_cons]
            exact ⟨fun h => (hsucc i).mp (h.resolve_left (by omega)), fun h => .inr ((hsucc i).mpr h)⟩

/-! ## Lists -/

/-- The rungs that filter the head accesses and take their next commands, as one filterMap. -/
theorem filterMap_filter_left {α β : Type} (p : α → Bool) (g : α → Option β) (l : List α) :
    (l.filter p).filterMap g = l.filterMap fun a => if p a then g a else none := by
  induction l with
  | nil => rfl
  | cons a l ih =>
    cases h : p a <;>
      simp only [List.filter_cons, List.filterMap_cons, h, ih, if_true, if_false, Bool.false_eq_true]

theorem filter_filterMap_right {α β : Type} (p : β → Bool) (g : α → Option β) (l : List α) :
    (l.filterMap g).filter p = l.filterMap fun a => (g a).filter p := by
  induction l with
  | nil => rfl
  | cons a l ih =>
    cases h : g a with
    | none => simp [h, ih]
    | some b => cases h' : p b <;> simp [h, h', ih, Option.filter]

end Sys2Proof.Machine
end

