-- ==== Sys2Proof/Laws/Eligible.lean ====
section
/-! SUPPORT. What the bank table and the spacing monitor ask of a command, each test as a proposition (R46,
R56, R72 to R79, R89). -/

namespace Sys2Proof.Machine

/-! ## Timers, holds and states -/

theorem Timer.isRunning_eq_false (t : Timer) : t.isRunning = false ↔ t = .stopped := by
  cases t <;> simp [Timer.isRunning]

theorem BankState.isOpening_eq_false (k : BankState) : k.isOpening = false ↔ ∀ row, k ≠ .opening row := by
  cases k <;> simp [BankState.isOpening]

theorem holdExpired_iff (s : State) (i : HoldId) :
    holdExpired s i = true ↔ (s.holds.get i).remaining = 0 := by
  simp only [holdExpired, beq_iff_eq]

theorem lanesFree_iff (s : State) (latency : Nat) :
    lanesFree s latency = true ↔ (s.holds.get .dataLane).remaining ≤ latency := by
  simp only [lanesFree, decide_eq_true_eq]

theorem closeReady_iff (k : BankRecord) :
    k.closeReady = true ↔ k.restore = .stopped ∧ k.writePhases = 0 ∧ k.writeRecovery = .stopped ∧
      k.readCloseWait = .stopped := by
  simp only [BankRecord.closeReady, Bool.and_eq_true, Bool.not_eq_true', Timer.isRunning_eq_false,
    beq_iff_eq, and_assoc]

/-! ## OPENs (R73, R74, R89) -/

/-- The newest OPEN remembered, if any, is old enough (R73). -/
theorem openGapKept_iff (s : State) (r : Rank) :
    openGapKept s r = true ↔ ∀ older newest, (rankAt s r).history = older ++ [newest] →
      tclk s .openGapOtherSet ≤ newest := by
  unfold openGapKept
  cases h : (rankAt s r).history using List.reverseRecOn with
  | nil => simp
  | append_singleton l a _ =>
    simp only [List.getLast?_append, List.getLast?_singleton, Option.some_or, decide_eq_true_eq]
    refine ⟨fun ha older newest e => ?_, fun ha => ha l a rfl⟩
    have e' := (List.append_inj' e rfl).2
    simp only [List.cons.injEq, and_true] at e'
    exact e' ▸ ha

/-- With four OPENs remembered the oldest is old enough (R74). -/
theorem openWindowKept_iff (s : State) (r : Rank) :
    openWindowKept s r = true ↔ ∀ oldest later, (rankAt s r).history = oldest :: later →
      3 ≤ later.length → tclk s .fourOpenWindow ≤ oldest := by
  unfold openWindowKept
  cases (rankAt s r).history with
  | nil => simp
  | cons a l =>
    simp only [Bool.or_eq_true, decide_eq_true_eq, List.cons.injEq]
    have hfew : l.length + 1 < Config.historyCapacity ↔ ¬ 3 ≤ l.length := by
      show l.length + 1 < 4 ↔ _
      omega
    rw [hfew]
    constructor
    · rintro h oldest later ⟨rfl, rfl⟩ h3
      exact h.resolve_left (not_not_intro h3)
    · intro h
      exact (em (3 ≤ l.length)).elim (fun h3 => .inr (h a l ⟨rfl, rfl⟩ h3)) .inl

theorem withheld_openRow_iff (s : State) (b : BankAddr) (row : Nat) :
    withheld s (.openRow b row) = false ↔ (rankAt s b.rank).debt < 8 := by
  simp only [withheld, urgent, decide_eq_false_iff_not, Nat.not_le]
  exact Iff.rfl

/-! ## READs and WRITEs (R75 to R79) -/

theorem accessGapsKept_iff (s : State) (b : BankAddr) :
    accessGapsKept s b = true ↔ (s.holds.get (.setAccess b.rank b.bankSet)).remaining = 0 ∧
      (s.holds.get (.rankAccess b.rank)).remaining = 0 ∧
      (s.holds.get (.rankSwitch b.rank)).remaining = 0 := by
  simp only [accessGapsKept, Bool.and_eq_true, holdExpired_iff, and_assoc]

theorem tableAllowsAccess_iff (s : State) (b : BankAddr) (row : Nat) :
    tableAllowsAccess s b row = true ↔
      (bankAt s b).state = .opened row ∧ (bankAt s b).closePending = false := by
  simp only [tableAllowsAccess, Bool.and_eq_true, beq_iff_eq, Bool.not_eq_true']

/-! ## Closing and refresh (R46, R56) -/

theorem tableAllowsClose_iff (s : State) (b : BankAddr) :
    tableAllowsClose s b = true ↔
      (∃ row, (bankAt s b).state = .opened row) ∧ (bankAt s b).closeReady = true := by
  simp only [tableAllowsClose, Bool.and_eq_true, BankState.isOpened_iff]

theorem tableAllowsCloseRank_iff (s : State) (r : Rank) :
    tableAllowsCloseRank s r = true ↔
      (rankAt s r).state = .ready ∧
        (∀ b : BankAddr, b.rank = r → ∀ row, (bankAt s b).state ≠ .opening row) ∧
        (∀ b : BankAddr, b.rank = r →
          ((bankAt s b).state = .unknown ∨ ∃ row, (bankAt s b).state = .opened row) →
          (bankAt s b).closeReady = true) ∧
        ∃ b : BankAddr, b.rank = r ∧ (bankAt s b).state ≠ .closed := by
  have hready : ∀ k : BankRecord, (!(k.state.isOpened || k.state == .unknown) || k.closeReady) = true ↔
      ((k.state = .unknown ∨ ∃ row, k.state = .opened row) → k.closeReady = true) := by
    intro k
    rw [← BankState.isOpened_iff]
    cases k.state <;> cases k.closeReady <;> simp [BankState.isOpened]
  simp only [tableAllowsCloseRank, Bool.and_eq_true, List.all_eq_true, List.any_eq_true,
    mem_rankBankRecords, beq_iff_eq, bne_iff_ne, Bool.not_eq_true', BankState.isOpening_eq_false, hready,
    and_assoc]
  refine and_congr_right fun _ => and_congr ?_ (and_congr ?_ ?_)
  · exact ⟨fun h b hb => h _ ⟨b, hb, rfl⟩, fun h k ⟨b, hb, hk⟩ => hk ▸ h b hb⟩
  · exact ⟨fun h b hb => h _ ⟨b, hb, rfl⟩, fun h k ⟨b, hb, hk⟩ => hk ▸ h b hb⟩
  · exact ⟨fun ⟨_, ⟨b, hb, hk⟩, h⟩ => ⟨b, hb, hk ▸ h⟩, fun ⟨b, hb, h⟩ => ⟨_, ⟨b, hb, rfl⟩, h⟩⟩

theorem tableAllowsRefresh_iff (s : State) (r : Rank) :
    tableAllowsRefresh s r = true ↔
      (rankAt s r).state = .ready ∧ ∀ b : BankAddr, b.rank = r → (bankAt s b).state = .closed := by
  simp only [tableAllowsRefresh, Bool.and_eq_true, List.all_eq_true, mem_rankBankRecords, beq_iff_eq]
  exact ⟨fun ⟨h, hr⟩ => ⟨hr, fun b hb => h _ ⟨b, hb, rfl⟩⟩,
    fun ⟨hr, h⟩ => ⟨fun k ⟨b, hb, hk⟩ => hk ▸ h b hb, hr⟩⟩

end Sys2Proof.Machine
end

