-- ==== Sys2Proof/Laws/Frames.lean ====
section
/-! SUPPORT. What each shared operation changes: it answers the state it was given with the named fields
replaced, and every other field as it was. -/

namespace Sys2Proof.Machine

/-- A PAUSE taken changes the expander, the refresh hold and the interval timers. -/
theorem beginPause_frame (q : Seq) (n : BitVec 16) (h : PerRank Bool) (s : State) :
    ∃ x1 x2 x3, beginPause q n h s = { s with
      expander := x1, refreshHold := x2, ranks := x3 } := by
  unfold beginPause bothRanks
  simp only [List.foldl]
  split <;> split <;> exact ⟨_, _, _, rfl⟩

theorem takeDescriptor_frame (d : Descriptor) (s : State) :
    ∃ x1 x2 x3 x4 x5, takeDescriptor d s = { s with
      intake.queue := x1, expander := x2, refreshHold := x3, ranks := x4, sweep.table := x5 } := by
  unfold takeDescriptor
  cases d.work with
  | region r => exact ⟨_, _, _, _, _, rfl⟩
  | marker c => exact ⟨_, _, _, _, _, rfl⟩
  | sweep f => exact ⟨_, _, _, _, _, rfl⟩
  | pause n h =>
    obtain ⟨_, _, _, h⟩ := beginPause_frame d.seq n h (setLife d.seq .expanding s)
    exact ⟨_, _, _, _, _, h⟩

theorem examineUpTo_frame (n : Nat) (s : State) :
    ∃ x1 x2 x3 x4 x5, examineUpTo n s = { s with
      intake.queue := x1, expander := x2, refreshHold := x3, ranks := x4, sweep.table := x5 } := by
  induction n generalizing s with
  | zero => exact ⟨_, _, _, _, _, rfl⟩
  | succ n ih =>
    unfold examineUpTo
    split
    · exact ⟨_, _, _, _, _, rfl⟩
    · split
      · obtain ⟨_, _, _, _, _, h⟩ := ih _
        exact ⟨_, _, _, _, _, h⟩
      · split
        · obtain ⟨_, _, _, _, _, h⟩ := takeDescriptor_frame _ s
          exact ⟨_, _, _, _, _, h⟩
        · exact ⟨_, _, _, _, _, rfl⟩

/-- An examination changes the descriptors' lifecycle, the expander, and what a PAUSE or a SWEEP sets. -/
theorem examine_frame (s : State) :
    ∃ x1 x2 x3 x4 x5, examine s = { s with
      intake.queue := x1, expander := x2, refreshHold := x3, ranks := x4, sweep.table := x5 } := by
  unfold examine
  split
  · obtain ⟨_, _, _, _, _, h⟩ := examineUpTo_frame _ s
    exact ⟨_, _, _, _, _, h⟩
  · exact ⟨_, _, _, _, _, rfl⟩

theorem fenceTake_frame (s : State) :
    ∃ x1 x2 x3 x4 x5, fenceTake s = { s with
      intake.queue := x1, expander := x2, refreshHold := x3, ranks := x4, sweep.table := x5 } := by
  unfold fenceTake
  split
  · split
    · split
      · obtain ⟨_, _, _, _, _, h⟩ := takeDescriptor_frame _ s
        exact ⟨_, _, _, _, _, h⟩
      · exact ⟨_, _, _, _, _, rfl⟩
    · exact ⟨_, _, _, _, _, rfl⟩
  · exact ⟨_, _, _, _, _, rfl⟩

theorem pauseExpiry_frame (s : State) :
    ∃ x1 x2 x3 x4 x5, pauseExpiry s = { s with
      intake.queue := x1, expander := x2, refreshHold := x3, ranks := x4, sweep.table := x5 } := by
  unfold pauseExpiry
  split
  · split
    · obtain ⟨_, _, _, _, _, h⟩ := examine_frame _
      exact ⟨_, _, _, _, _, h⟩
    · exact ⟨_, _, _, _, _, rfl⟩
  · exact ⟨_, _, _, _, _, rfl⟩

theorem placeBurst_frame (q : Seq) (r : Region) (row col : Nat) (s : State) :
    ∃ x1 x2 x3 x4 x5 x6, placeBurst q r row col s = { s with
      window := x1, intake.queue := x2, expander := x3, refreshHold := x4, ranks := x5
      sweep.table := x6 } := by
  unfold placeBurst
  dsimp only
  split
  · split
    · exact ⟨_, _, _, _, _, _, rfl⟩
    · obtain ⟨_, _, _, _, _, h⟩ := examine_frame _
      exact ⟨_, _, _, _, _, _, h⟩
  · exact ⟨_, _, _, _, _, _, rfl⟩

/-- A placement changes the window and what an examination changes. -/
theorem accessPlacement_frame (s : State) :
    ∃ x1 x2 x3 x4 x5 x6, accessPlacement s = { s with
      window := x1, intake.queue := x2, expander := x3, refreshHold := x4, ranks := x5
      sweep.table := x6 } := by
  unfold accessPlacement
  split
  · split
    · split
      · obtain ⟨_, _, _, _, _, _, h⟩ := placeBurst_frame _ _ _ _ s
        exact ⟨_, _, _, _, _, _, h⟩
      · exact ⟨_, _, _, _, _, _, rfl⟩
    · exact ⟨_, _, _, _, _, _, rfl⟩
  · exact ⟨_, _, _, _, _, _, rfl⟩

theorem sweepTapSet_frame (s : State) :
    ∃ x1 x2, sweepTapSet s = { s with
      expander := x1, sweep.taps := x2 } := by
  unfold sweepTapSet
  split
  · split <;> exact ⟨_, _, rfl⟩
  · exact ⟨_, _, rfl⟩

theorem sweepReadPlacement_frame (s : State) :
    ∃ x1 x2, sweepReadPlacement s = { s with
      expander := x1, window := x2 } := by
  unfold sweepReadPlacement
  split
  · split
    · dsimp only
      exact ⟨_, _, rfl⟩
    · exact ⟨_, _, rfl⟩
  · exact ⟨_, _, rfl⟩

theorem sweepEnd_frame (s : State) :
    ∃ x1 x2 x3 x4 x5, sweepEnd s = { s with
      intake.queue := x1, expander := x2, refreshHold := x3, ranks := x4, sweep := x5 } := by
  unfold sweepEnd
  split
  · split
    · dsimp only
      obtain ⟨_, _, _, _, _, h⟩ := examine_frame _
      exact ⟨_, _, _, _, _, h⟩
    · exact ⟨_, _, _, _, _, rfl⟩
  · exact ⟨_, _, _, _, _, rfl⟩

theorem finishTap_frame (w : Sweep) (s : State) :
    ∃ x1 x2, finishTap w s = { s with
      expander := x1, sweep.table := x2 } := by
  unfold finishTap
  dsimp only
  split <;> exact ⟨_, _, rfl⟩

/-- A sweep result changes the sweep in hand and its table. -/
theorem sweepResult_frame (q : Seq) (failed : Bool) (s : State) :
    ∃ x1 x2, sweepResult q failed s = { s with
      expander := x1, sweep.table := x2 } := by
  unfold sweepResult
  split
  · split
    · dsimp only
      split
      · obtain ⟨_, _, h⟩ := finishTap_frame _ s
        exact ⟨_, _, h⟩
      · exact ⟨_, _, rfl⟩
    · exact ⟨_, _, rfl⟩
  · exact ⟨_, _, rfl⟩

theorem windDownSweep_frame (s : State) :
    ∃ x1 x2, windDownSweep s = { s with
      expander := x1, sweep.taps := x2 } := by
  unfold windDownSweep
  split
  · split <;> exact ⟨_, _, rfl⟩
  · exact ⟨_, _, rfl⟩

theorem loseRank_frame (r : Rank) (s : State) :
    ∃ x1 x2 x3, loseRank r s = { s with
      banks := x1, ranks := x2, arbiter.pendingClose := x3 } := by
  exact ⟨_, _, _, rfl⟩

theorem loseRanks_frame (l : List Rank) (s : State) :
    ∃ x1 x2 x3, l.foldl (fun s r => loseRank r s) s = { s with
      banks := x1, ranks := x2, arbiter.pendingClose := x3 } := by
  induction l generalizing s with
  | nil => exact ⟨_, _, _, rfl⟩
  | cons r l ih =>
    obtain ⟨_, _, _, h⟩ := loseRank_frame r s
    obtain ⟨_, _, _, h'⟩ := ih (loseRank r s)
    rw [List.foldl_cons, h', h]
    exact ⟨_, _, _, rfl⟩

/-- The alert's effect on the bank table. -/
theorem loseBanks_frame (s : State) :
    ∃ x1 x2 x3, loseBanks s = { s with
      banks := x1, ranks := x2, arbiter.pendingClose := x3 } := by
  obtain ⟨_, _, _, h⟩ := loseRanks_frame (presentRanks s) s
  exact ⟨_, _, _, h⟩

theorem takeAlert_frame (s : State) :
    ∃ x1 x2 x3 x4 x5, takeAlert s = { s with
      banks := x1, ranks := x2, arbiter.pendingClose := x3, run.alerts := x4
      messages.haltRequests := x5 } := by
  obtain ⟨_, _, _, h⟩ := loseBanks_frame { s with run.alerts := satInc s.run.alerts }
  unfold takeAlert
  dsimp only
  rw [h]
  split <;> exact ⟨_, _, _, _, _, rfl⟩

theorem routeMiscompare_frame (e : InFlight) (r : CompareResult) (s : State) :
    ∃ x1 x2 x3, routeMiscompare e r s = { s with
      intake.queue := x1, run.stats.miscompares := x2, messages := x3 } := by
  unfold routeMiscompare checkFailLimit
  dsimp only
  split <;> exact ⟨_, _, _, rfl⟩

theorem routeResult_frame (e : InFlight) (r : CompareResult) (s : State) :
    ∃ x1 x2 x3 x4 x5, routeResult e r s = { s with
      intake.queue := x1, run.stats.miscompares := x2, messages := x3, expander := x4
      sweep.table := x5 } := by
  unfold routeResult routeSweepRead
  split
  · split
    · obtain ⟨_, _, h⟩ := sweepResult_frame _ _ s
      exact ⟨_, _, _, _, _, h⟩
    · exact ⟨_, _, _, _, _, rfl⟩
  · split
    · obtain ⟨_, _, _, h⟩ := routeMiscompare_frame _ _ s
      exact ⟨_, _, _, _, _, h⟩
    · exact ⟨_, _, _, _, _, rfl⟩

theorem matchArrival_frame (e : InFlight) (rest : List InFlight) (x : Burst) (s : State) :
    ∃ x1 x2 x3 x4 x5 x6 x7 x8, matchArrival e rest x s = { s with
      reads.inFlight := x1, reads.strays := x2, intake.queue := x3, run.stats.readsCompleted := x4
      run.stats.miscompares := x5, messages := x6, expander := x7, sweep := x8 } := by
  unfold matchArrival
  dsimp only
  obtain ⟨_, _, _, _, _, h⟩ := routeResult_frame e
    (compareBursts s.pattern.ignoreMask x (patternBurst e.pattern e.addr))
    (countReadCompleted (completeAccess e.seq { s with reads.inFlight := rest }))
  rw [h]
  obtain ⟨_, _, h⟩ := windDownSweep_frame _
  exact ⟨_, _, _, _, _, _, _, _, h⟩

/-- A data arrival changes the reads, what they count, the messages and the sweep in hand. -/
theorem takeArrival_frame (x : Burst) (s : State) :
    ∃ x1 x2 x3 x4 x5 x6 x7 x8, takeArrival x s = { s with
      reads.inFlight := x1, reads.strays := x2, intake.queue := x3, run.stats.readsCompleted := x4
      run.stats.miscompares := x5, messages := x6, expander := x7, sweep := x8 } := by
  unfold takeArrival
  split
  · exact ⟨_, _, _, _, _, _, _, _, rfl⟩
  · split
    · obtain ⟨_, _, _, _, _, _, _, _, h⟩ := matchArrival_frame _ _ _ s
      exact ⟨_, _, _, _, _, _, _, _, h⟩
    · exact ⟨_, _, _, _, _, _, _, _, rfl⟩

theorem loseRead_frame (s : State) (e : InFlight) :
    ∃ x1 x2 x3 x4, loseRead s e = { s with
      intake.queue := x1, run.stats.readsLost := x2, expander := x3, sweep.table := x4 } := by
  unfold loseRead
  dsimp only
  split
  · obtain ⟨_, _, h⟩ := sweepResult_frame _ _ _
    exact ⟨_, _, _, _, h⟩
  · exact ⟨_, _, _, _, rfl⟩

theorem loseReads_frame (l : List InFlight) (s : State) :
    ∃ x1 x2 x3 x4, l.foldl loseRead s = { s with
      intake.queue := x1, run.stats.readsLost := x2, expander := x3, sweep.table := x4 } := by
  induction l generalizing s with
  | nil => exact ⟨_, _, _, _, rfl⟩
  | cons e l ih =>
    obtain ⟨_, _, _, _, h⟩ := loseRead_frame s e
    obtain ⟨_, _, _, _, h'⟩ := ih (loseRead s e)
    rw [List.foldl_cons, h', h]
    exact ⟨_, _, _, _, rfl⟩

theorem takeDeadline_frame (s : State) :
    ∃ x1 x2 x3 x4 x5 x6 x7, takeDeadline s = { s with
      reads.inFlight := x1, reads.timeouts := x2, intake.queue := x3, run.stats.readsLost := x4
      messages.haltRequests := x5, expander := x6, sweep := x7 } := by
  unfold takeDeadline
  dsimp only
  obtain ⟨_, _, _, _, h⟩ := loseReads_frame s.reads.inFlight { s with reads.inFlight := [] }
  rw [h]
  obtain ⟨_, _, h⟩ := windDownSweep_frame _
  rw [h]
  exact ⟨_, _, _, _, _, _, _, rfl⟩

/-- A deadline expiry changes the reads, what they count, the halt requests and the sweep in hand. -/
theorem deadlineExpiry_frame (s : State) :
    ∃ x1 x2 x3 x4 x5 x6 x7, deadlineExpiry s = { s with
      reads.inFlight := x1, reads.timeouts := x2, intake.queue := x3, run.stats.readsLost := x4
      messages.haltRequests := x5, expander := x6, sweep := x7 } := by
  unfold deadlineExpiry
  split
  · split
    · obtain ⟨_, _, _, _, _, _, _, h⟩ := takeDeadline_frame s
      exact ⟨_, _, _, _, _, _, _, h⟩
    · exact ⟨_, _, _, _, _, _, _, rfl⟩
  · exact ⟨_, _, _, _, _, _, _, rfl⟩

theorem writeDataPhaseEnd_frame (s : State) :
    ∃ x1 x2 x3, writeDataPhaseEnd s = { s with
      reads.writePhases := x1, banks := x2, intake.queue := x3 } := by
  unfold writeDataPhaseEnd
  split
  · split <;> exact ⟨_, _, _, rfl⟩
  · exact ⟨_, _, _, rfl⟩

theorem finishBurst_frame (b : OpenBurst) (s : State) :
    ∃ x1 x2, finishBurst b s = { s with
      capture.burst := x1, capture.arrivals := x2 } := by
  unfold finishBurst
  split <;> exact ⟨_, _, rfl⟩

theorem finishAgedBurst_frame (s : State) :
    ∃ x1 x2, finishAgedBurst s = { s with
      capture.burst := x1, capture.arrivals := x2 } := by
  unfold finishAgedBurst
  split
  · split
    · obtain ⟨_, _, h⟩ := finishBurst_frame _ s
      exact ⟨_, _, h⟩
    · exact ⟨_, _, rfl⟩
  · exact ⟨_, _, rfl⟩

theorem finishBefore_frame (p : Nat) (s : State) :
    ∃ x1 x2, finishBefore p s = { s with
      capture.burst := x1, capture.arrivals := x2 } := by
  unfold finishBefore
  split
  · split
    · obtain ⟨_, _, h⟩ := finishBurst_frame _ s
      exact ⟨_, _, h⟩
    · exact ⟨_, _, rfl⟩
  · exact ⟨_, _, rfl⟩

theorem takeEdge_frame (k : Quad) (p : Nat) (v : Byte) (s : State) :
    ∃ x1 x2, takeEdge k p v s = { s with
      capture.burst := x1, capture.arrivals := x2 } := by
  unfold takeEdge
  split
  · exact ⟨_, _, rfl⟩
  · dsimp only
    split
    · obtain ⟨_, _, h⟩ := finishBurst_frame _ s
      exact ⟨_, _, h⟩
    · exact ⟨_, _, rfl⟩

/-- A strobe edge changes the capture alone. -/
theorem strobeEdge_frame (k : Quad) (p : Fin 64) (v : Vector Byte 32) (s : State) :
    ∃ x1 x2, strobeEdge k p v s = { s with
      capture.burst := x1, capture.arrivals := x2 } := by
  unfold strobeEdge
  split
  · exact ⟨_, _, rfl⟩
  · obtain ⟨_, _, h⟩ := finishBefore_frame p.val s
    obtain ⟨_, _, h'⟩ := takeEdge_frame k p.val (capturePoint s k v) (finishBefore p.val s)
    rw [h', h]
    exact ⟨_, _, rfl⟩

theorem takeOldestArrival_frame (s : State) :
    ∃ x1 x2 x3 x4 x5 x6 x7 x8 x9, takeOldestArrival s = { s with
      reads.inFlight := x1, reads.strays := x2, intake.queue := x3, run.stats.readsCompleted := x4
      run.stats.miscompares := x5, messages := x6, expander := x7, sweep := x8
      capture.arrivals := x9 } := by
  unfold takeOldestArrival
  split
  · obtain ⟨_, _, _, _, _, _, _, _, h⟩ := takeArrival_frame _ _
    exact ⟨_, _, _, _, _, _, _, _, _, h⟩
  · exact ⟨_, _, _, _, _, _, _, _, _, rfl⟩

theorem dataArrival_frame (s : State) :
    ∃ x1 x2 x3 x4 x5 x6 x7 x8 x9 x10, dataArrival s = { s with
      reads.inFlight := x1, reads.strays := x2, intake.queue := x3, run.stats.readsCompleted := x4
      run.stats.miscompares := x5, messages := x6, expander := x7, sweep := x8
      capture.burst := x9, capture.arrivals := x10 } := by
  unfold dataArrival
  split
  · obtain ⟨_, _, h⟩ := finishAgedBurst_frame s
    rw [h]
    obtain ⟨_, _, _, _, _, _, _, _, _, h⟩ := takeOldestArrival_frame _
    exact ⟨_, _, _, _, _, _, _, _, _, _, h⟩
  · obtain ⟨_, _, _, _, _, _, _, _, _, h⟩ := takeOldestArrival_frame s
    exact ⟨_, _, _, _, _, _, _, _, _, _, h⟩

theorem repeatArrivals_frame (n : Nat) (s : State) :
    ∃ x1 x2 x3 x4 x5 x6 x7 x8 x9 x10, repeatArrivals n s = { s with
      reads.inFlight := x1, reads.strays := x2, intake.queue := x3, run.stats.readsCompleted := x4
      run.stats.miscompares := x5, messages := x6, expander := x7, sweep := x8
      capture.burst := x9, capture.arrivals := x10 } := by
  induction n generalizing s with
  | zero => exact ⟨_, _, _, _, _, _, _, _, _, _, rfl⟩
  | succ n ih =>
    obtain ⟨_, _, _, _, _, _, _, _, _, _, h⟩ := dataArrival_frame s
    obtain ⟨_, _, _, _, _, _, _, _, _, _, h'⟩ := ih (dataArrival s)
    unfold repeatArrivals
    rw [h', h]
    exact ⟨_, _, _, _, _, _, _, _, _, _, rfl⟩

theorem takeArrivals_frame (s : State) :
    ∃ x1 x2 x3 x4 x5 x6 x7 x8 x9 x10, takeArrivals s = { s with
      reads.inFlight := x1, reads.strays := x2, intake.queue := x3, run.stats.readsCompleted := x4
      run.stats.miscompares := x5, messages := x6, expander := x7, sweep := x8
      capture.burst := x9, capture.arrivals := x10 } :=
  repeatArrivals_frame _ s

theorem intervalExpiry_frame (r : Rank) (s : State) :
    ∃ x1 x2 x3 x4, intervalExpiry r s = { s with
      ranks := x1, refresh.missed := x2, run.flags := x3, messages.haltRequests := x4 } := by
  unfold intervalExpiry takeIntervalExpiry
  split
  · split
    · exact ⟨_, _, _, _, rfl⟩
    · dsimp only
      split <;> exact ⟨_, _, _, _, rfl⟩
  · exact ⟨_, _, _, _, rfl⟩

theorem settlePeriodEnd_frame (s : State) :
    ∃ x1, settlePeriodEnd s = { s with
      run.settle := x1 } := by
  unfold settlePeriodEnd
  split
  · split <;> exact ⟨_, rfl⟩
  · exact ⟨_, rfl⟩

/-- What the expiries and arrivals taken at the end of a tclk leave as it was. -/
def UpkeepKeeps (s t : State) : Prop :=
    t.pending = s.pending ∧
    t.host = s.host ∧
    t.timing = s.timing ∧
    t.pattern = s.pattern ∧
    t.failLog = s.failLog ∧
    t.intake.nextSeq = s.intake.nextSeq ∧
    t.refresh.enable = s.refresh.enable ∧
    t.refresh.haltOnMiss = s.refresh.haltOnMiss ∧
    t.reads.failLimit = s.reads.failLimit ∧
    t.capture.alertWasActive = s.capture.alertWasActive ∧
    t.run.state = s.run.state ∧
    t.run.haltCause = s.run.haltCause ∧
    t.run.drainRequested = s.run.drainRequested ∧
    t.run.completions = s.run.completions ∧
    t.run.enables = s.run.enables ∧
    t.run.alerts = s.run.alerts ∧
    t.run.abortDiscards = s.run.abortDiscards ∧
    t.window = s.window ∧
    t.holds = s.holds ∧
    t.arbiter = s.arbiter

theorem UpkeepKeeps.trans {s t u : State} (h : UpkeepKeeps s t) (k : UpkeepKeeps t u) : UpkeepKeeps s u := by
  obtain ⟨h1, h2, h3, h4, h5, h6, h7, h8, h9, h10, h11, h12, h13, h14, h15, h16, h17, h18, h19,
    h20⟩ := h
  obtain ⟨k1, k2, k3, k4, k5, k6, k7, k8, k9, k10, k11, k12, k13, k14, k15, k16, k17, k18, k19,
    k20⟩ := k
  exact ⟨k1.trans h1, k2.trans h2, k3.trans h3, k4.trans h4, k5.trans h5, k6.trans h6, k7.trans
    h7, k8.trans h8, k9.trans h9, k10.trans h10, k11.trans h11, k12.trans h12, k13.trans h13,
    k14.trans h14, k15.trans h15, k16.trans h16, k17.trans h17, k18.trans h18, k19.trans h19,
    k20.trans h20⟩

theorem UpkeepKeeps.refl (s : State) : UpkeepKeeps s s := by
  exact ⟨rfl, rfl, rfl, rfl, rfl, rfl, rfl, rfl, rfl, rfl, rfl, rfl, rfl, rfl, rfl, rfl, rfl,
    rfl, rfl, rfl⟩

/-- What the issue of a command leaves as it was. -/
def IssueKeeps (s t : State) : Prop :=
    t.pending = s.pending ∧
    t.host = s.host ∧
    t.timing = s.timing ∧
    t.pattern = s.pattern ∧
    t.failLog = s.failLog ∧
    t.intake.nextSeq = s.intake.nextSeq ∧
    t.refresh.enable = s.refresh.enable ∧
    t.refresh.haltOnMiss = s.refresh.haltOnMiss ∧
    t.reads.failLimit = s.reads.failLimit ∧
    t.capture.alertWasActive = s.capture.alertWasActive ∧
    t.run.state = s.run.state ∧
    t.run.haltCause = s.run.haltCause ∧
    t.run.drainRequested = s.run.drainRequested ∧
    t.run.completions = s.run.completions ∧
    t.run.enables = s.run.enables ∧
    t.run.alerts = s.run.alerts ∧
    t.run.abortDiscards = s.run.abortDiscards ∧
    t.run.flags = s.run.flags ∧
    t.run.settle = s.run.settle ∧
    t.expander = s.expander ∧
    t.refreshHold = s.refreshHold ∧
    t.refresh = s.refresh ∧
    t.sweep = s.sweep ∧
    t.messages = s.messages ∧
    t.capture = s.capture ∧
    t.reads.timeouts = s.reads.timeouts ∧
    t.reads.strays = s.reads.strays ∧
    t.run.stats.readsCompleted = s.run.stats.readsCompleted ∧
    t.run.stats.readsLost = s.run.stats.readsLost ∧
    t.run.stats.miscompares = s.run.stats.miscompares

theorem IssueKeeps.trans {s t u : State} (h : IssueKeeps s t) (k : IssueKeeps t u) : IssueKeeps s u := by
  obtain ⟨h1, h2, h3, h4, h5, h6, h7, h8, h9, h10, h11, h12, h13, h14, h15, h16, h17, h18, h19,
    h20, h21, h22, h23, h24, h25, h26, h27, h28, h29, h30⟩ := h
  obtain ⟨k1, k2, k3, k4, k5, k6, k7, k8, k9, k10, k11, k12, k13, k14, k15, k16, k17, k18, k19,
    k20, k21, k22, k23, k24, k25, k26, k27, k28, k29, k30⟩ := k
  exact ⟨k1.trans h1, k2.trans h2, k3.trans h3, k4.trans h4, k5.trans h5, k6.trans h6, k7.trans
    h7, k8.trans h8, k9.trans h9, k10.trans h10, k11.trans h11, k12.trans h12, k13.trans h13,
    k14.trans h14, k15.trans h15, k16.trans h16, k17.trans h17, k18.trans h18, k19.trans h19,
    k20.trans h20, k21.trans h21, k22.trans h22, k23.trans h23, k24.trans h24, k25.trans h25,
    k26.trans h26, k27.trans h27, k28.trans h28, k29.trans h29, k30.trans h30⟩

theorem IssueKeeps.refl (s : State) : IssueKeeps s s := by
  exact ⟨rfl, rfl, rfl, rfl, rfl, rfl, rfl, rfl, rfl, rfl, rfl, rfl, rfl, rfl, rfl, rfl, rfl,
    rfl, rfl, rfl, rfl, rfl, rfl, rfl, rfl, rfl, rfl, rfl, rfl, rfl⟩

/-- What a command opportunity and its tclk leave as it was. -/
def TclkKeeps (s t : State) : Prop :=
    t.pending = s.pending ∧
    t.host = s.host ∧
    t.timing = s.timing ∧
    t.pattern = s.pattern ∧
    t.failLog = s.failLog ∧
    t.intake.nextSeq = s.intake.nextSeq ∧
    t.refresh.enable = s.refresh.enable ∧
    t.refresh.haltOnMiss = s.refresh.haltOnMiss ∧
    t.reads.failLimit = s.reads.failLimit ∧
    t.capture.alertWasActive = s.capture.alertWasActive ∧
    t.run.state = s.run.state ∧
    t.run.haltCause = s.run.haltCause ∧
    t.run.drainRequested = s.run.drainRequested ∧
    t.run.completions = s.run.completions ∧
    t.run.enables = s.run.enables ∧
    t.run.alerts = s.run.alerts ∧
    t.run.abortDiscards = s.run.abortDiscards

theorem TclkKeeps.trans {s t u : State} (h : TclkKeeps s t) (k : TclkKeeps t u) : TclkKeeps s u := by
  obtain ⟨h1, h2, h3, h4, h5, h6, h7, h8, h9, h10, h11, h12, h13, h14, h15, h16, h17⟩ := h
  obtain ⟨k1, k2, k3, k4, k5, k6, k7, k8, k9, k10, k11, k12, k13, k14, k15, k16, k17⟩ := k
  exact ⟨k1.trans h1, k2.trans h2, k3.trans h3, k4.trans h4, k5.trans h5, k6.trans h6, k7.trans
    h7, k8.trans h8, k9.trans h9, k10.trans h10, k11.trans h11, k12.trans h12, k13.trans h13,
    k14.trans h14, k15.trans h15, k16.trans h16, k17.trans h17⟩

theorem TclkKeeps.refl (s : State) : TclkKeeps s s := by
  exact ⟨rfl, rfl, rfl, rfl, rfl, rfl, rfl, rfl, rfl, rfl, rfl, rfl, rfl, rfl, rfl, rfl, rfl⟩

theorem expireTable_keeps (s : State) : UpkeepKeeps s (expireTable s) := by
  exact ⟨rfl, rfl, rfl, rfl, rfl, rfl, rfl, rfl, rfl, rfl, rfl, rfl, rfl, rfl, rfl, rfl, rfl,
    rfl, rfl, rfl⟩

theorem writeDataPhaseEnd_keeps (s : State) : UpkeepKeeps s (writeDataPhaseEnd s) := by
  obtain ⟨_, _, _, h⟩ := writeDataPhaseEnd_frame s
  rw [h]
  exact ⟨rfl, rfl, rfl, rfl, rfl, rfl, rfl, rfl, rfl, rfl, rfl, rfl, rfl, rfl, rfl, rfl, rfl,
    rfl, rfl, rfl⟩

theorem takeArrivals_keeps (s : State) : UpkeepKeeps s (takeArrivals s) := by
  obtain ⟨_, _, _, _, _, _, _, _, _, _, h⟩ := takeArrivals_frame s
  rw [h]
  exact ⟨rfl, rfl, rfl, rfl, rfl, rfl, rfl, rfl, rfl, rfl, rfl, rfl, rfl, rfl, rfl, rfl, rfl,
    rfl, rfl, rfl⟩

theorem deadlineExpiry_keeps (s : State) : UpkeepKeeps s (deadlineExpiry s) := by
  obtain ⟨_, _, _, _, _, _, _, h⟩ := deadlineExpiry_frame s
  rw [h]
  exact ⟨rfl, rfl, rfl, rfl, rfl, rfl, rfl, rfl, rfl, rfl, rfl, rfl, rfl, rfl, rfl, rfl, rfl,
    rfl, rfl, rfl⟩

theorem intervalExpiry_keeps (r : Rank) (s : State) : UpkeepKeeps s (intervalExpiry r s) := by
  obtain ⟨_, _, _, _, h⟩ := intervalExpiry_frame r s
  rw [h]
  exact ⟨rfl, rfl, rfl, rfl, rfl, rfl, rfl, rfl, rfl, rfl, rfl, rfl, rfl, rfl, rfl, rfl, rfl,
    rfl, rfl, rfl⟩

theorem pauseExpiry_keeps (s : State) : UpkeepKeeps s (pauseExpiry s) := by
  obtain ⟨_, _, _, _, _, h⟩ := pauseExpiry_frame s
  rw [h]
  exact ⟨rfl, rfl, rfl, rfl, rfl, rfl, rfl, rfl, rfl, rfl, rfl, rfl, rfl, rfl, rfl, rfl, rfl,
    rfl, rfl, rfl⟩

theorem settlePeriodEnd_keeps (s : State) : UpkeepKeeps s (settlePeriodEnd s) := by
  obtain ⟨_, h⟩ := settlePeriodEnd_frame s
  rw [h]
  exact ⟨rfl, rfl, rfl, rfl, rfl, rfl, rfl, rfl, rfl, rfl, rfl, rfl, rfl, rfl, rfl, rfl, rfl,
    rfl, rfl, rfl⟩

theorem settleOverdue_keeps (s : State) : UpkeepKeeps s (settleOverdue s) := by
  unfold settleOverdue
  exact (expireTable_keeps s).trans <| (writeDataPhaseEnd_keeps _).trans <|
    (takeArrivals_keeps _).trans <|
    (deadlineExpiry_keeps _).trans <| (intervalExpiry_keeps _ _).trans <|
    (intervalExpiry_keeps _ _).trans <| (pauseExpiry_keeps _).trans (settlePeriodEnd_keeps _)

theorem leaveWindow_keeps (a : Access) (s : State) :
    IssueKeeps s (leaveWindow a s) := by
  exact ⟨rfl, rfl, rfl, rfl, rfl, rfl, rfl, rfl, rfl, rfl, rfl, rfl, rfl, rfl, rfl, rfl, rfl,
    rfl, rfl, rfl, rfl, rfl, rfl, rfl, rfl, rfl, rfl, rfl, rfl, rfl⟩

theorem countIssued_keeps (q : Seq) (s : State) :
    IssueKeeps s (countIssued q s) := by
  exact ⟨rfl, rfl, rfl, rfl, rfl, rfl, rfl, rfl, rfl, rfl, rfl, rfl, rfl, rfl, rfl, rfl, rfl,
    rfl, rfl, rfl, rfl, rfl, rfl, rfl, rfl, rfl, rfl, rfl, rfl, rfl⟩

theorem modifyBank_keeps (b : BankAddr) (f : BankRecord → BankRecord) (s : State) :
    IssueKeeps s (modifyBank b f s) := by
  exact ⟨rfl, rfl, rfl, rfl, rfl, rfl, rfl, rfl, rfl, rfl, rfl, rfl, rfl, rfl, rfl, rfl, rfl,
    rfl, rfl, rfl, rfl, rfl, rfl, rfl, rfl, rfl, rfl, rfl, rfl, rfl⟩

theorem startHold_keeps (i : HoldId) (v : Nat) (s : State) :
    IssueKeeps s (startHold i v s) := by
  exact ⟨rfl, rfl, rfl, rfl, rfl, rfl, rfl, rfl, rfl, rfl, rfl, rfl, rfl, rfl, rfl, rfl, rfl,
    rfl, rfl, rfl, rfl, rfl, rfl, rfl, rfl, rfl, rfl, rfl, rfl, rfl⟩

theorem issueOpen_keeps (b : BankAddr) (row : Nat) (s : State) :
    IssueKeeps s (issueOpen b row s) := by
  exact ⟨rfl, rfl, rfl, rfl, rfl, rfl, rfl, rfl, rfl, rfl, rfl, rfl, rfl, rfl, rfl, rfl, rfl,
    rfl, rfl, rfl, rfl, rfl, rfl, rfl, rfl, rfl, rfl, rfl, rfl, rfl⟩

theorem issueClose_keeps (b : BankAddr) (s : State) :
    IssueKeeps s (issueClose b s) := by
  exact ⟨rfl, rfl, rfl, rfl, rfl, rfl, rfl, rfl, rfl, rfl, rfl, rfl, rfl, rfl, rfl, rfl, rfl,
    rfl, rfl, rfl, rfl, rfl, rfl, rfl, rfl, rfl, rfl, rfl, rfl, rfl⟩

theorem issueCloseRank_keeps (r : Rank) (s : State) :
    IssueKeeps s (issueCloseRank r s) := by
  exact ⟨rfl, rfl, rfl, rfl, rfl, rfl, rfl, rfl, rfl, rfl, rfl, rfl, rfl, rfl, rfl, rfl, rfl,
    rfl, rfl, rfl, rfl, rfl, rfl, rfl, rfl, rfl, rfl, rfl, rfl, rfl⟩

theorem issueRefresh_keeps (r : Rank) (s : State) :
    IssueKeeps s (issueRefresh r s) := by
  exact ⟨rfl, rfl, rfl, rfl, rfl, rfl, rfl, rfl, rfl, rfl, rfl, rfl, rfl, rfl, rfl, rfl, rfl,
    rfl, rfl, rfl, rfl, rfl, rfl, rfl, rfl, rfl, rfl, rfl, rfl, rfl⟩

theorem driveBus_keeps (b : CommandBus) (s : State) :
    IssueKeeps s (driveBus b s) := by
  exact ⟨rfl, rfl, rfl, rfl, rfl, rfl, rfl, rfl, rfl, rfl, rfl, rfl, rfl, rfl, rfl, rfl, rfl,
    rfl, rfl, rfl, rfl, rfl, rfl, rfl, rfl, rfl, rfl, rfl, rfl, rfl⟩

theorem recordRung_keeps (n : Nat) (s : State) :
    IssueKeeps s (recordRung n s) := by
  exact ⟨rfl, rfl, rfl, rfl, rfl, rfl, rfl, rfl, rfl, rfl, rfl, rfl, rfl, rfl, rfl, rfl, rfl,
    rfl, rfl, rfl, rfl, rfl, rfl, rfl, rfl, rfl, rfl, rfl, rfl, rfl⟩

theorem joinPendingClose_keeps (a : Access) (s : State) : IssueKeeps s (joinPendingClose a s) := by
  unfold joinPendingClose
  split
  · exact ⟨rfl, rfl, rfl, rfl, rfl, rfl, rfl, rfl, rfl, rfl, rfl, rfl, rfl, rfl, rfl, rfl, rfl,
      rfl, rfl, rfl, rfl, rfl, rfl, rfl, rfl, rfl, rfl, rfl, rfl, rfl⟩
  · exact IssueKeeps.refl s

theorem startReadHolds_keeps (b : BankAddr) (s : State) : IssueKeeps s (startReadHolds b s) :=
  (startHold_keeps _ _ s).trans <| (startHold_keeps _ _ _).trans <| (startHold_keeps _ _ _).trans <|
    (startHold_keeps _ _ _).trans (startHold_keeps _ _ _)

theorem startWriteHolds_keeps (b : BankAddr) (s : State) : IssueKeeps s (startWriteHolds b s) :=
  (startHold_keeps _ _ s).trans <| (startHold_keeps _ _ _).trans <| (startHold_keeps _ _ _).trans <|
    (startHold_keeps _ _ _).trans <| (startHold_keeps _ _ _).trans (startHold_keeps _ _ _)

theorem recordRead_keeps (x : List InFlight) (n : Word) (s : State) :
    IssueKeeps s { s with reads.inFlight := x, run.stats.readsIssued := n } := by
  exact ⟨rfl, rfl, rfl, rfl, rfl, rfl, rfl, rfl, rfl, rfl, rfl, rfl, rfl, rfl, rfl, rfl, rfl,
    rfl, rfl, rfl, rfl, rfl, rfl, rfl, rfl, rfl, rfl, rfl, rfl, rfl⟩

theorem recordWrite_keeps (x : List WritePhase) (n : Word) (s : State) :
    IssueKeeps s { s with reads.writePhases := x, run.stats.writesIssued := n } := by
  exact ⟨rfl, rfl, rfl, rfl, rfl, rfl, rfl, rfl, rfl, rfl, rfl, rfl, rfl, rfl, rfl, rfl, rfl,
    rfl, rfl, rfl, rfl, rfl, rfl, rfl, rfl, rfl, rfl, rfl, rfl, rfl⟩

theorem issueRead_keeps (a : Access) (s : State) : IssueKeeps s (issueRead a s) :=
  (leaveWindow_keeps a s).trans <| (countIssued_keeps _ _).trans <| (joinPendingClose_keeps a _).trans <|
    (modifyBank_keeps _ _ _).trans <| (startReadHolds_keeps _ _).trans (recordRead_keeps _ _ _)

theorem issueWrite_keeps (a : Access) (s : State) : IssueKeeps s (issueWrite a s) :=
  (leaveWindow_keeps a s).trans <| (countIssued_keeps _ _).trans <| (joinPendingClose_keeps a _).trans <|
    (modifyBank_keeps _ _ _).trans <| (startWriteHolds_keeps _ _).trans (recordWrite_keeps _ _ _)

theorem issueEffects_keeps (c : ArrayCommand) (s : State) : IssueKeeps s (issueEffects c s) := by
  cases c with
  | openRow b row => exact issueOpen_keeps b row s
  | close b => exact issueClose_keeps b s
  | closeRank r => exact issueCloseRank_keeps r s
  | read a => exact issueRead_keeps a s
  | write a => exact issueWrite_keeps a s
  | refresh r => exact issueRefresh_keeps r s

theorem issue_keeps (n : Nat) (c : ArrayCommand) (s : State) : IssueKeeps s (issue n c s) :=
  (issueEffects_keeps c s).trans <| (driveBus_keeps _ _).trans (recordRung_keeps _ _)

theorem takeOpportunity_keeps (s : State) : IssueKeeps s (takeOpportunity s) := by
  unfold takeOpportunity
  split
  · exact issue_keeps _ _ s
  · exact driveBus_keeps _ s

theorem UpkeepKeeps.tclk {s t : State} (h : UpkeepKeeps s t) : TclkKeeps s t := by
  obtain ⟨h1, h2, h3, h4, h5, h6, h7, h8, h9, h10, h11, h12, h13, h14, h15, h16, h17, _⟩ := h
  exact ⟨h1, h2, h3, h4, h5, h6, h7, h8, h9, h10, h11, h12, h13, h14, h15, h16, h17⟩

theorem IssueKeeps.tclk {s t : State} (h : IssueKeeps s t) : TclkKeeps s t := by
  obtain ⟨h1, h2, h3, h4, h5, h6, h7, h8, h9, h10, h11, h12, h13, h14, h15, h16, h17, _⟩ := h
  exact ⟨h1, h2, h3, h4, h5, h6, h7, h8, h9, h10, h11, h12, h13, h14, h15, h16, h17⟩

theorem passTclk_keeps (s : State) : TclkKeeps s (passTclk s) := by
  exact ⟨rfl, rfl, rfl, rfl, rfl, rfl, rfl, rfl, rfl, rfl, rfl, rfl, rfl, rfl, rfl, rfl, rfl⟩

theorem commandOpportunity_keeps (s : State) : TclkKeeps s (commandOpportunity s) :=
  (takeOpportunity_keeps s).tclk.trans <| (settleOverdue_keeps _).tclk.trans (passTclk_keeps _)

theorem pushCommand_frame (s : State) :
    ∃ x1 x2 x3 x4 x5 x6 x7 x8 x9, pushCommand s = { s with
      host.commandCode := x1, host.commandMask := x2, host.resultCode := x3
      host.resultDetail := x4, intake := x5, expander := x6, refreshHold := x7, ranks := x8
      sweep.table := x9 } := by
  unfold pushCommand
  split
  · exact ⟨_, _, _, _, _, _, _, _, _, rfl⟩
  · unfold acceptPush
    obtain ⟨_, _, _, _, _, h⟩ := examine_frame _
    rw [h]
    exact ⟨_, _, _, _, _, _, _, _, _, rfl⟩

theorem startCommand_frame (s : State) :
    ∃ x1 x2 x3 x4 x5 x6 x7 x8 x9 x10 x11 x12 x13 x14 x15, startCommand s = { s with
      host.commandCode := x1, host.commandMask := x2, host.resultCode := x3
      host.resultDetail := x4, timing.working := x5, run.state := x6, run.stats := x7
      run.haltCause := x8, run.drainRequested := x9, run.settle := x10, intake.queue := x11
      expander := x12, refreshHold := x13, ranks := x14, sweep.table := x15 } := by
  unfold startCommand
  dsimp only
  split
  · split
    · exact ⟨_, _, _, _, _, _, _, _, _, _, _, _, _, _, _, rfl⟩
    · obtain ⟨_, _, _, _, _, h⟩ := examine_frame _
      rw [h]
      exact ⟨_, _, _, _, _, _, _, _, _, _, _, _, _, _, _, rfl⟩
  · exact ⟨_, _, _, _, _, _, _, _, _, _, _, _, _, _, _, rfl⟩

theorem stopCommand_frame (s : State) :
    ∃ x1 x2 x3 x4 x5 x6 x7 x8 x9, stopCommand s = { s with
      host.commandCode := x1, host.commandMask := x2, host.resultCode := x3
      host.resultDetail := x4, run.state := x5, intake.queue := x6, expander := x7
      refreshHold := x8, ranks := x9 } := by
  unfold stopCommand
  dsimp only
  split
  · unfold stopExpander
    split <;> exact ⟨_, _, _, _, _, _, _, _, _, rfl⟩
  · exact ⟨_, _, _, _, _, _, _, _, _, rfl⟩
  · exact ⟨_, _, _, _, _, _, _, _, _, rfl⟩

theorem resumeCommand_frame (s : State) :
    ∃ x1 x2 x3 x4 x5 x6 x7 x8 x9 x10, resumeCommand s = { s with
      host.commandCode := x1, host.commandMask := x2, host.resultCode := x3
      host.resultDetail := x4, run.state := x5, intake.queue := x6, expander := x7
      refreshHold := x8, ranks := x9, sweep.table := x10 } := by
  unfold resumeCommand
  dsimp only
  split
  · split
    · exact ⟨_, _, _, _, _, _, _, _, _, _, rfl⟩
    · unfold resumeExpander
      obtain ⟨_, _, _, _, _, h⟩ := fenceTake_frame _
      rw [h]
      obtain ⟨_, _, _, _, _, h⟩ := examine_frame _
      rw [h]
      exact ⟨_, _, _, _, _, _, _, _, _, _, rfl⟩
  · exact ⟨_, _, _, _, _, _, _, _, _, _, rfl⟩

theorem abortCommand_frame (s : State) :
    ∃ x1 x2 x3 x4 x5 x6 x7 x8 x9 x10, abortCommand s = { s with
      host.commandCode := x1, host.commandMask := x2, host.resultCode := x3
      host.resultDetail := x4, run.state := x5, run.abortDiscards := x6, window := x7
      intake.queue := x8, expander := x9, sweep.taps := x10 } := by
  unfold abortCommand
  dsimp only
  split
  · exact ⟨_, _, _, _, _, _, _, _, _, _, rfl⟩
  · exact ⟨_, _, _, _, _, _, _, _, _, _, rfl⟩
  · unfold enterAborting abortExpander
    dsimp only
    split
    · obtain ⟨_, _, h⟩ := windDownSweep_frame _
      rw [h]
      exact ⟨_, _, _, _, _, _, _, _, _, _, rfl⟩
    · exact ⟨_, _, _, _, _, _, _, _, _, _, rfl⟩

theorem popCommand_frame (s : State) :
    ∃ x1 x2 x3 x4 x5, popCommand s = { s with
      host.commandCode := x1, host.commandMask := x2, host.resultCode := x3
      host.resultDetail := x4, run.completions := x5 } := by
  unfold popCommand
  dsimp only
  split <;> exact ⟨_, _, _, _, _, rfl⟩

theorem failReleaseCommand_frame (s : State) :
    ∃ x1 x2 x3 x4 x5 x6, failReleaseCommand s = { s with
      host.commandCode := x1, host.commandMask := x2, host.resultCode := x3
      host.resultDetail := x4, failLog.records := x5, failLog.view := x6 } := by
  unfold failReleaseCommand
  dsimp only
  split <;> exact ⟨_, _, _, _, _, _, rfl⟩

theorem refreshEnableCommand_frame (mask : BitVec 2) (s : State) :
    ∃ x1 x2 x3 x4 x5 x6 x7 x8, refreshEnableCommand mask s = { s with
      host.commandCode := x1, host.commandMask := x2, host.resultCode := x3
      host.resultDetail := x4, timing.working.refreshInterval := x5
      timing.working.refreshTime := x6, refresh.enable := x7, ranks := x8 } := by
  unfold refreshEnableCommand forNamed bothRanks
  split
  · exact ⟨_, _, _, _, _, _, _, _, rfl⟩
  · simp only [List.foldl]
    split <;> split <;> exact ⟨_, _, _, _, _, _, _, _, rfl⟩

theorem refreshDisableCommand_frame (mask : BitVec 2) (s : State) :
    ∃ x1 x2 x3 x4 x5 x6, refreshDisableCommand mask s = { s with
      host.commandCode := x1, host.commandMask := x2, host.resultCode := x3
      host.resultDetail := x4, refresh.enable := x5, ranks := x6 } := by
  unfold refreshDisableCommand forNamed bothRanks
  simp only [List.foldl]
  split <;> split <;> exact ⟨_, _, _, _, _, _, rfl⟩

theorem geometryWrite_frame (be : BitVec 4) (v : Word) (s : State) :
    ∃ x1 x2 x3 x4 x5, geometryWrite be v s = { s with
      host.badAccesses := x1, timing.geometry := x2, banks := x3, ranks := x4
      arbiter.pendingClose := x5 } := by
  unfold geometryWrite ifFull ifIdle
  split
  · split
    · dsimp only
      split
      · unfold writeGeometry rankCountChanged
        dsimp only
        split <;> exact ⟨_, _, _, _, _, rfl⟩
      · exact ⟨_, _, _, _, _, rfl⟩
    · exact ⟨_, _, _, _, _, rfl⟩
  · exact ⟨_, _, _, _, _, rfl⟩

theorem failOffer_frame (s : State) :
    ∃ x1 x2 x3 x4, failOffer s = { s with
      failLog.records := x1, failLog.overflow := x2, run.flags := x3, messages.offers := x4 } := by
  unfold failOffer takeOffer
  split
  · split
    · exact ⟨_, _, _, _, rfl⟩
    · split <;> exact ⟨_, _, _, _, rfl⟩
  · exact ⟨_, _, _, _, rfl⟩

theorem haltRequest_frame (c : HaltCause) (s : State) :
    ∃ x1 x2 x3 x4 x5, haltRequest c s = { s with
      run.state := x1, run.haltCause := x2, run.drainRequested := x3, run.flags := x4
      messages.haltRequests := x5 } := by
  unfold haltRequest takeHalt
  split
  · dsimp only
    split <;> exact ⟨_, _, _, _, _, rfl⟩
  · exact ⟨_, _, _, _, _, rfl⟩

theorem retirement_frame (s : State) :
    ∃ x1 x2 x3, retirement s = { s with
      intake.queue := x1, run.completions := x2, run.flags := x3 } := by
  unfold retirement retireHead
  split
  · split
    · dsimp only
      split <;> exact ⟨_, _, _, rfl⟩
    · exact ⟨_, _, _, rfl⟩
  · exact ⟨_, _, _, rfl⟩

end Sys2Proof.Machine
end

