-- ==== Sys2Proof/Laws/State.lean ====
section
/-! SUPPORT. One lemma per field for each basic update of the state: the field it writes, and every other
field as it was. A queue put in place is read here too. -/

namespace Sys2Proof.Machine

section Updates

variable (s : State)

/-! ## answer -/

@[simp] theorem answer_pending (c : ResultCode) (d : Byte) :
    (answer c d s).pending = s.pending := rfl
@[simp] theorem answer_host (c : ResultCode) (d : Byte) :
    (answer c d s).host = { s.host with resultCode := c, resultDetail := d } := rfl
@[simp] theorem answer_timing (c : ResultCode) (d : Byte) : (answer c d s).timing = s.timing := rfl
@[simp] theorem answer_intake (c : ResultCode) (d : Byte) : (answer c d s).intake = s.intake := rfl
@[simp] theorem answer_expander (c : ResultCode) (d : Byte) :
    (answer c d s).expander = s.expander := rfl
@[simp] theorem answer_refreshHold (c : ResultCode) (d : Byte) :
    (answer c d s).refreshHold = s.refreshHold := rfl
@[simp] theorem answer_window (c : ResultCode) (d : Byte) : (answer c d s).window = s.window := rfl
@[simp] theorem answer_banks (c : ResultCode) (d : Byte) : (answer c d s).banks = s.banks := rfl
@[simp] theorem answer_ranks (c : ResultCode) (d : Byte) : (answer c d s).ranks = s.ranks := rfl
@[simp] theorem answer_holds (c : ResultCode) (d : Byte) : (answer c d s).holds = s.holds := rfl
@[simp] theorem answer_arbiter (c : ResultCode) (d : Byte) :
    (answer c d s).arbiter = s.arbiter := rfl
@[simp] theorem answer_refresh (c : ResultCode) (d : Byte) :
    (answer c d s).refresh = s.refresh := rfl
@[simp] theorem answer_pattern (c : ResultCode) (d : Byte) :
    (answer c d s).pattern = s.pattern := rfl
@[simp] theorem answer_reads (c : ResultCode) (d : Byte) : (answer c d s).reads = s.reads := rfl
@[simp] theorem answer_failLog (c : ResultCode) (d : Byte) :
    (answer c d s).failLog = s.failLog := rfl
@[simp] theorem answer_sweep (c : ResultCode) (d : Byte) : (answer c d s).sweep = s.sweep := rfl
@[simp] theorem answer_run (c : ResultCode) (d : Byte) : (answer c d s).run = s.run := rfl
@[simp] theorem answer_messages (c : ResultCode) (d : Byte) :
    (answer c d s).messages = s.messages := rfl
@[simp] theorem answer_capture (c : ResultCode) (d : Byte) :
    (answer c d s).capture = s.capture := rfl
@[simp] theorem bankAt_answer (c : ResultCode) (d : Byte) (x : BankAddr) :
    bankAt (answer c d s) x = bankAt s x := rfl
@[simp] theorem rankAt_answer (c : ResultCode) (d : Byte) (x : Rank) :
    rankAt (answer c d s) x = rankAt s x := rfl
@[simp] theorem tclk_answer (c : ResultCode) (d : Byte) (x : TimingParam) :
    tclk (answer c d s) x = tclk s x := rfl

/-! ## takeCommand -/

@[simp] theorem takeCommand_pending (c : BitVec 4) (m : BitVec 2) :
    (takeCommand c m s).pending = s.pending := rfl
@[simp] theorem takeCommand_host (c : BitVec 4) (m : BitVec 2) :
    (takeCommand c m s).host = { s.host with commandCode := c, commandMask := m } := rfl
@[simp] theorem takeCommand_timing (c : BitVec 4) (m : BitVec 2) :
    (takeCommand c m s).timing = s.timing := rfl
@[simp] theorem takeCommand_intake (c : BitVec 4) (m : BitVec 2) :
    (takeCommand c m s).intake = s.intake := rfl
@[simp] theorem takeCommand_expander (c : BitVec 4) (m : BitVec 2) :
    (takeCommand c m s).expander = s.expander := rfl
@[simp] theorem takeCommand_refreshHold (c : BitVec 4) (m : BitVec 2) :
    (takeCommand c m s).refreshHold = s.refreshHold := rfl
@[simp] theorem takeCommand_window (c : BitVec 4) (m : BitVec 2) :
    (takeCommand c m s).window = s.window := rfl
@[simp] theorem takeCommand_banks (c : BitVec 4) (m : BitVec 2) :
    (takeCommand c m s).banks = s.banks := rfl
@[simp] theorem takeCommand_ranks (c : BitVec 4) (m : BitVec 2) :
    (takeCommand c m s).ranks = s.ranks := rfl
@[simp] theorem takeCommand_holds (c : BitVec 4) (m : BitVec 2) :
    (takeCommand c m s).holds = s.holds := rfl
@[simp] theorem takeCommand_arbiter (c : BitVec 4) (m : BitVec 2) :
    (takeCommand c m s).arbiter = s.arbiter := rfl
@[simp] theorem takeCommand_refresh (c : BitVec 4) (m : BitVec 2) :
    (takeCommand c m s).refresh = s.refresh := rfl
@[simp] theorem takeCommand_pattern (c : BitVec 4) (m : BitVec 2) :
    (takeCommand c m s).pattern = s.pattern := rfl
@[simp] theorem takeCommand_reads (c : BitVec 4) (m : BitVec 2) :
    (takeCommand c m s).reads = s.reads := rfl
@[simp] theorem takeCommand_failLog (c : BitVec 4) (m : BitVec 2) :
    (takeCommand c m s).failLog = s.failLog := rfl
@[simp] theorem takeCommand_sweep (c : BitVec 4) (m : BitVec 2) :
    (takeCommand c m s).sweep = s.sweep := rfl
@[simp] theorem takeCommand_run (c : BitVec 4) (m : BitVec 2) :
    (takeCommand c m s).run = s.run := rfl
@[simp] theorem takeCommand_messages (c : BitVec 4) (m : BitVec 2) :
    (takeCommand c m s).messages = s.messages := rfl
@[simp] theorem takeCommand_capture (c : BitVec 4) (m : BitVec 2) :
    (takeCommand c m s).capture = s.capture := rfl
@[simp] theorem bankAt_takeCommand (c : BitVec 4) (m : BitVec 2) (x : BankAddr) :
    bankAt (takeCommand c m s) x = bankAt s x := rfl
@[simp] theorem rankAt_takeCommand (c : BitVec 4) (m : BitVec 2) (x : Rank) :
    rankAt (takeCommand c m s) x = rankAt s x := rfl
@[simp] theorem tclk_takeCommand (c : BitVec 4) (m : BitVec 2) (x : TimingParam) :
    tclk (takeCommand c m s) x = tclk s x := rfl

/-! ## countBadAccess -/

@[simp] theorem countBadAccess_pending : (countBadAccess s).pending = s.pending := rfl
@[simp] theorem countBadAccess_host :
    (countBadAccess s).host = { s.host with badAccesses := satInc s.host.badAccesses } := rfl
@[simp] theorem countBadAccess_timing : (countBadAccess s).timing = s.timing := rfl
@[simp] theorem countBadAccess_intake : (countBadAccess s).intake = s.intake := rfl
@[simp] theorem countBadAccess_expander : (countBadAccess s).expander = s.expander := rfl
@[simp] theorem countBadAccess_refreshHold : (countBadAccess s).refreshHold = s.refreshHold := rfl
@[simp] theorem countBadAccess_window : (countBadAccess s).window = s.window := rfl
@[simp] theorem countBadAccess_banks : (countBadAccess s).banks = s.banks := rfl
@[simp] theorem countBadAccess_ranks : (countBadAccess s).ranks = s.ranks := rfl
@[simp] theorem countBadAccess_holds : (countBadAccess s).holds = s.holds := rfl
@[simp] theorem countBadAccess_arbiter : (countBadAccess s).arbiter = s.arbiter := rfl
@[simp] theorem countBadAccess_refresh : (countBadAccess s).refresh = s.refresh := rfl
@[simp] theorem countBadAccess_pattern : (countBadAccess s).pattern = s.pattern := rfl
@[simp] theorem countBadAccess_reads : (countBadAccess s).reads = s.reads := rfl
@[simp] theorem countBadAccess_failLog : (countBadAccess s).failLog = s.failLog := rfl
@[simp] theorem countBadAccess_sweep : (countBadAccess s).sweep = s.sweep := rfl
@[simp] theorem countBadAccess_run : (countBadAccess s).run = s.run := rfl
@[simp] theorem countBadAccess_messages : (countBadAccess s).messages = s.messages := rfl
@[simp] theorem countBadAccess_capture : (countBadAccess s).capture = s.capture := rfl
@[simp] theorem bankAt_countBadAccess (x : BankAddr) :
    bankAt (countBadAccess s) x = bankAt s x := rfl
@[simp] theorem rankAt_countBadAccess (x : Rank) : rankAt (countBadAccess s) x = rankAt s x := rfl
@[simp] theorem tclk_countBadAccess (x : TimingParam) : tclk (countBadAccess s) x = tclk s x := rfl

/-! ## returnWord -/

@[simp] theorem returnWord_pending (v : Word) : (returnWord v s).pending = s.pending := rfl
@[simp] theorem returnWord_host (v : Word) :
    (returnWord v s).host = { s.host with readData := v } := rfl
@[simp] theorem returnWord_timing (v : Word) : (returnWord v s).timing = s.timing := rfl
@[simp] theorem returnWord_intake (v : Word) : (returnWord v s).intake = s.intake := rfl
@[simp] theorem returnWord_expander (v : Word) : (returnWord v s).expander = s.expander := rfl
@[simp] theorem returnWord_refreshHold (v : Word) :
    (returnWord v s).refreshHold = s.refreshHold := rfl
@[simp] theorem returnWord_window (v : Word) : (returnWord v s).window = s.window := rfl
@[simp] theorem returnWord_banks (v : Word) : (returnWord v s).banks = s.banks := rfl
@[simp] theorem returnWord_ranks (v : Word) : (returnWord v s).ranks = s.ranks := rfl
@[simp] theorem returnWord_holds (v : Word) : (returnWord v s).holds = s.holds := rfl
@[simp] theorem returnWord_arbiter (v : Word) : (returnWord v s).arbiter = s.arbiter := rfl
@[simp] theorem returnWord_refresh (v : Word) : (returnWord v s).refresh = s.refresh := rfl
@[simp] theorem returnWord_pattern (v : Word) : (returnWord v s).pattern = s.pattern := rfl
@[simp] theorem returnWord_reads (v : Word) : (returnWord v s).reads = s.reads := rfl
@[simp] theorem returnWord_failLog (v : Word) : (returnWord v s).failLog = s.failLog := rfl
@[simp] theorem returnWord_sweep (v : Word) : (returnWord v s).sweep = s.sweep := rfl
@[simp] theorem returnWord_run (v : Word) : (returnWord v s).run = s.run := rfl
@[simp] theorem returnWord_messages (v : Word) : (returnWord v s).messages = s.messages := rfl
@[simp] theorem returnWord_capture (v : Word) : (returnWord v s).capture = s.capture := rfl
@[simp] theorem bankAt_returnWord (v : Word) (x : BankAddr) :
    bankAt (returnWord v s) x = bankAt s x := rfl
@[simp] theorem rankAt_returnWord (v : Word) (x : Rank) :
    rankAt (returnWord v s) x = rankAt s x := rfl
@[simp] theorem tclk_returnWord (v : Word) (x : TimingParam) :
    tclk (returnWord v s) x = tclk s x := rfl

/-! ## setExpander -/

@[simp] theorem setExpander_pending (e : Expander) : (setExpander e s).pending = s.pending := rfl
@[simp] theorem setExpander_host (e : Expander) : (setExpander e s).host = s.host := rfl
@[simp] theorem setExpander_timing (e : Expander) : (setExpander e s).timing = s.timing := rfl
@[simp] theorem setExpander_intake (e : Expander) : (setExpander e s).intake = s.intake := rfl
@[simp] theorem setExpander_expander (e : Expander) :
    (setExpander e s).expander = e := rfl
@[simp] theorem setExpander_refreshHold (e : Expander) :
    (setExpander e s).refreshHold = s.refreshHold := rfl
@[simp] theorem setExpander_window (e : Expander) : (setExpander e s).window = s.window := rfl
@[simp] theorem setExpander_banks (e : Expander) : (setExpander e s).banks = s.banks := rfl
@[simp] theorem setExpander_ranks (e : Expander) : (setExpander e s).ranks = s.ranks := rfl
@[simp] theorem setExpander_holds (e : Expander) : (setExpander e s).holds = s.holds := rfl
@[simp] theorem setExpander_arbiter (e : Expander) : (setExpander e s).arbiter = s.arbiter := rfl
@[simp] theorem setExpander_refresh (e : Expander) : (setExpander e s).refresh = s.refresh := rfl
@[simp] theorem setExpander_pattern (e : Expander) : (setExpander e s).pattern = s.pattern := rfl
@[simp] theorem setExpander_reads (e : Expander) : (setExpander e s).reads = s.reads := rfl
@[simp] theorem setExpander_failLog (e : Expander) : (setExpander e s).failLog = s.failLog := rfl
@[simp] theorem setExpander_sweep (e : Expander) : (setExpander e s).sweep = s.sweep := rfl
@[simp] theorem setExpander_run (e : Expander) : (setExpander e s).run = s.run := rfl
@[simp] theorem setExpander_messages (e : Expander) : (setExpander e s).messages = s.messages := rfl
@[simp] theorem setExpander_capture (e : Expander) : (setExpander e s).capture = s.capture := rfl
@[simp] theorem bankAt_setExpander (e : Expander) (x : BankAddr) :
    bankAt (setExpander e s) x = bankAt s x := rfl
@[simp] theorem rankAt_setExpander (e : Expander) (x : Rank) :
    rankAt (setExpander e s) x = rankAt s x := rfl
@[simp] theorem tclk_setExpander (e : Expander) (x : TimingParam) :
    tclk (setExpander e s) x = tclk s x := rfl

/-! ## setTap -/

@[simp] theorem setTap_pending (k : Quad) (v : BitVec 5) : (setTap k v s).pending = s.pending := rfl
@[simp] theorem setTap_host (k : Quad) (v : BitVec 5) : (setTap k v s).host = s.host := rfl
@[simp] theorem setTap_timing (k : Quad) (v : BitVec 5) : (setTap k v s).timing = s.timing := rfl
@[simp] theorem setTap_intake (k : Quad) (v : BitVec 5) : (setTap k v s).intake = s.intake := rfl
@[simp] theorem setTap_expander (k : Quad) (v : BitVec 5) :
    (setTap k v s).expander = s.expander := rfl
@[simp] theorem setTap_refreshHold (k : Quad) (v : BitVec 5) :
    (setTap k v s).refreshHold = s.refreshHold := rfl
@[simp] theorem setTap_window (k : Quad) (v : BitVec 5) : (setTap k v s).window = s.window := rfl
@[simp] theorem setTap_banks (k : Quad) (v : BitVec 5) : (setTap k v s).banks = s.banks := rfl
@[simp] theorem setTap_ranks (k : Quad) (v : BitVec 5) : (setTap k v s).ranks = s.ranks := rfl
@[simp] theorem setTap_holds (k : Quad) (v : BitVec 5) : (setTap k v s).holds = s.holds := rfl
@[simp] theorem setTap_arbiter (k : Quad) (v : BitVec 5) : (setTap k v s).arbiter = s.arbiter := rfl
@[simp] theorem setTap_refresh (k : Quad) (v : BitVec 5) : (setTap k v s).refresh = s.refresh := rfl
@[simp] theorem setTap_pattern (k : Quad) (v : BitVec 5) : (setTap k v s).pattern = s.pattern := rfl
@[simp] theorem setTap_reads (k : Quad) (v : BitVec 5) : (setTap k v s).reads = s.reads := rfl
@[simp] theorem setTap_failLog (k : Quad) (v : BitVec 5) : (setTap k v s).failLog = s.failLog := rfl
@[simp] theorem setTap_sweep (k : Quad) (v : BitVec 5) :
    (setTap k v s).sweep = { s.sweep with taps := s.sweep.taps.modify k fun _ => v } := rfl
@[simp] theorem setTap_run (k : Quad) (v : BitVec 5) : (setTap k v s).run = s.run := rfl
@[simp] theorem setTap_messages (k : Quad) (v : BitVec 5) :
    (setTap k v s).messages = s.messages := rfl
@[simp] theorem setTap_capture (k : Quad) (v : BitVec 5) : (setTap k v s).capture = s.capture := rfl
@[simp] theorem bankAt_setTap (k : Quad) (v : BitVec 5) (x : BankAddr) :
    bankAt (setTap k v s) x = bankAt s x := rfl
@[simp] theorem rankAt_setTap (k : Quad) (v : BitVec 5) (x : Rank) :
    rankAt (setTap k v s) x = rankAt s x := rfl
@[simp] theorem tclk_setTap (k : Quad) (v : BitVec 5) (x : TimingParam) :
    tclk (setTap k v s) x = tclk s x := rfl

/-! ## place -/

@[simp] theorem place_pending (l : List Access) : (place l s).pending = s.pending := rfl
@[simp] theorem place_host (l : List Access) : (place l s).host = s.host := rfl
@[simp] theorem place_timing (l : List Access) : (place l s).timing = s.timing := rfl
@[simp] theorem place_intake (l : List Access) : (place l s).intake = s.intake := rfl
@[simp] theorem place_expander (l : List Access) : (place l s).expander = s.expander := rfl
@[simp] theorem place_refreshHold (l : List Access) : (place l s).refreshHold = s.refreshHold := rfl
@[simp] theorem place_window (l : List Access) :
    (place l s).window = s.window ++ l := rfl
@[simp] theorem place_banks (l : List Access) : (place l s).banks = s.banks := rfl
@[simp] theorem place_ranks (l : List Access) : (place l s).ranks = s.ranks := rfl
@[simp] theorem place_holds (l : List Access) : (place l s).holds = s.holds := rfl
@[simp] theorem place_arbiter (l : List Access) : (place l s).arbiter = s.arbiter := rfl
@[simp] theorem place_refresh (l : List Access) : (place l s).refresh = s.refresh := rfl
@[simp] theorem place_pattern (l : List Access) : (place l s).pattern = s.pattern := rfl
@[simp] theorem place_reads (l : List Access) : (place l s).reads = s.reads := rfl
@[simp] theorem place_failLog (l : List Access) : (place l s).failLog = s.failLog := rfl
@[simp] theorem place_sweep (l : List Access) : (place l s).sweep = s.sweep := rfl
@[simp] theorem place_run (l : List Access) : (place l s).run = s.run := rfl
@[simp] theorem place_messages (l : List Access) : (place l s).messages = s.messages := rfl
@[simp] theorem place_capture (l : List Access) : (place l s).capture = s.capture := rfl
@[simp] theorem bankAt_place (l : List Access) (x : BankAddr) :
    bankAt (place l s) x = bankAt s x := rfl
@[simp] theorem rankAt_place (l : List Access) (x : Rank) : rankAt (place l s) x = rankAt s x := rfl
@[simp] theorem tclk_place (l : List Access) (x : TimingParam) :
    tclk (place l s) x = tclk s x := rfl

/-! ## modifyDescriptor -/

@[simp] theorem modifyDescriptor_pending (q : Seq) (f : Descriptor → Descriptor) :
    (modifyDescriptor q f s).pending = s.pending := rfl
@[simp] theorem modifyDescriptor_host (q : Seq) (f : Descriptor → Descriptor) :
    (modifyDescriptor q f s).host = s.host := rfl
@[simp] theorem modifyDescriptor_timing (q : Seq) (f : Descriptor → Descriptor) :
    (modifyDescriptor q f s).timing = s.timing := rfl
@[simp] theorem modifyDescriptor_intake (q : Seq) (f : Descriptor → Descriptor) :
    (modifyDescriptor q f s).intake = { s.intake with queue := s.intake.queue.map fun d => if d.seq = q then f d else d } := rfl
@[simp] theorem modifyDescriptor_expander (q : Seq) (f : Descriptor → Descriptor) :
    (modifyDescriptor q f s).expander = s.expander := rfl
@[simp] theorem modifyDescriptor_refreshHold (q : Seq) (f : Descriptor → Descriptor) :
    (modifyDescriptor q f s).refreshHold = s.refreshHold := rfl
@[simp] theorem modifyDescriptor_window (q : Seq) (f : Descriptor → Descriptor) :
    (modifyDescriptor q f s).window = s.window := rfl
@[simp] theorem modifyDescriptor_banks (q : Seq) (f : Descriptor → Descriptor) :
    (modifyDescriptor q f s).banks = s.banks := rfl
@[simp] theorem modifyDescriptor_ranks (q : Seq) (f : Descriptor → Descriptor) :
    (modifyDescriptor q f s).ranks = s.ranks := rfl
@[simp] theorem modifyDescriptor_holds (q : Seq) (f : Descriptor → Descriptor) :
    (modifyDescriptor q f s).holds = s.holds := rfl
@[simp] theorem modifyDescriptor_arbiter (q : Seq) (f : Descriptor → Descriptor) :
    (modifyDescriptor q f s).arbiter = s.arbiter := rfl
@[simp] theorem modifyDescriptor_refresh (q : Seq) (f : Descriptor → Descriptor) :
    (modifyDescriptor q f s).refresh = s.refresh := rfl
@[simp] theorem modifyDescriptor_pattern (q : Seq) (f : Descriptor → Descriptor) :
    (modifyDescriptor q f s).pattern = s.pattern := rfl
@[simp] theorem modifyDescriptor_reads (q : Seq) (f : Descriptor → Descriptor) :
    (modifyDescriptor q f s).reads = s.reads := rfl
@[simp] theorem modifyDescriptor_failLog (q : Seq) (f : Descriptor → Descriptor) :
    (modifyDescriptor q f s).failLog = s.failLog := rfl
@[simp] theorem modifyDescriptor_sweep (q : Seq) (f : Descriptor → Descriptor) :
    (modifyDescriptor q f s).sweep = s.sweep := rfl
@[simp] theorem modifyDescriptor_run (q : Seq) (f : Descriptor → Descriptor) :
    (modifyDescriptor q f s).run = s.run := rfl
@[simp] theorem modifyDescriptor_messages (q : Seq) (f : Descriptor → Descriptor) :
    (modifyDescriptor q f s).messages = s.messages := rfl
@[simp] theorem modifyDescriptor_capture (q : Seq) (f : Descriptor → Descriptor) :
    (modifyDescriptor q f s).capture = s.capture := rfl
@[simp] theorem bankAt_modifyDescriptor (q : Seq) (f : Descriptor → Descriptor) (x : BankAddr) :
    bankAt (modifyDescriptor q f s) x = bankAt s x := rfl
@[simp] theorem rankAt_modifyDescriptor (q : Seq) (f : Descriptor → Descriptor) (x : Rank) :
    rankAt (modifyDescriptor q f s) x = rankAt s x := rfl
@[simp] theorem tclk_modifyDescriptor (q : Seq) (f : Descriptor → Descriptor) (x : TimingParam) :
    tclk (modifyDescriptor q f s) x = tclk s x := rfl

/-! ## modifyBank -/

@[simp] theorem modifyBank_pending (b : BankAddr) (f : BankRecord → BankRecord) :
    (modifyBank b f s).pending = s.pending := rfl
@[simp] theorem modifyBank_host (b : BankAddr) (f : BankRecord → BankRecord) :
    (modifyBank b f s).host = s.host := rfl
@[simp] theorem modifyBank_timing (b : BankAddr) (f : BankRecord → BankRecord) :
    (modifyBank b f s).timing = s.timing := rfl
@[simp] theorem modifyBank_intake (b : BankAddr) (f : BankRecord → BankRecord) :
    (modifyBank b f s).intake = s.intake := rfl
@[simp] theorem modifyBank_expander (b : BankAddr) (f : BankRecord → BankRecord) :
    (modifyBank b f s).expander = s.expander := rfl
@[simp] theorem modifyBank_refreshHold (b : BankAddr) (f : BankRecord → BankRecord) :
    (modifyBank b f s).refreshHold = s.refreshHold := rfl
@[simp] theorem modifyBank_window (b : BankAddr) (f : BankRecord → BankRecord) :
    (modifyBank b f s).window = s.window := rfl
@[simp] theorem modifyBank_ranks (b : BankAddr) (f : BankRecord → BankRecord) :
    (modifyBank b f s).ranks = s.ranks := rfl
@[simp] theorem modifyBank_holds (b : BankAddr) (f : BankRecord → BankRecord) :
    (modifyBank b f s).holds = s.holds := rfl
@[simp] theorem modifyBank_arbiter (b : BankAddr) (f : BankRecord → BankRecord) :
    (modifyBank b f s).arbiter = s.arbiter := rfl
@[simp] theorem modifyBank_refresh (b : BankAddr) (f : BankRecord → BankRecord) :
    (modifyBank b f s).refresh = s.refresh := rfl
@[simp] theorem modifyBank_pattern (b : BankAddr) (f : BankRecord → BankRecord) :
    (modifyBank b f s).pattern = s.pattern := rfl
@[simp] theorem modifyBank_reads (b : BankAddr) (f : BankRecord → BankRecord) :
    (modifyBank b f s).reads = s.reads := rfl
@[simp] theorem modifyBank_failLog (b : BankAddr) (f : BankRecord → BankRecord) :
    (modifyBank b f s).failLog = s.failLog := rfl
@[simp] theorem modifyBank_sweep (b : BankAddr) (f : BankRecord → BankRecord) :
    (modifyBank b f s).sweep = s.sweep := rfl
@[simp] theorem modifyBank_run (b : BankAddr) (f : BankRecord → BankRecord) :
    (modifyBank b f s).run = s.run := rfl
@[simp] theorem modifyBank_messages (b : BankAddr) (f : BankRecord → BankRecord) :
    (modifyBank b f s).messages = s.messages := rfl
@[simp] theorem modifyBank_capture (b : BankAddr) (f : BankRecord → BankRecord) :
    (modifyBank b f s).capture = s.capture := rfl
@[simp] theorem rankAt_modifyBank (b : BankAddr) (f : BankRecord → BankRecord) (x : Rank) :
    rankAt (modifyBank b f s) x = rankAt s x := rfl
@[simp] theorem tclk_modifyBank (b : BankAddr) (f : BankRecord → BankRecord) (x : TimingParam) :
    tclk (modifyBank b f s) x = tclk s x := rfl

/-! ## modifyRankBanks -/

@[simp] theorem modifyRankBanks_pending (r : Rank) (f : BankRecord → BankRecord) :
    (modifyRankBanks r f s).pending = s.pending := rfl
@[simp] theorem modifyRankBanks_host (r : Rank) (f : BankRecord → BankRecord) :
    (modifyRankBanks r f s).host = s.host := rfl
@[simp] theorem modifyRankBanks_timing (r : Rank) (f : BankRecord → BankRecord) :
    (modifyRankBanks r f s).timing = s.timing := rfl
@[simp] theorem modifyRankBanks_intake (r : Rank) (f : BankRecord → BankRecord) :
    (modifyRankBanks r f s).intake = s.intake := rfl
@[simp] theorem modifyRankBanks_expander (r : Rank) (f : BankRecord → BankRecord) :
    (modifyRankBanks r f s).expander = s.expander := rfl
@[simp] theorem modifyRankBanks_refreshHold (r : Rank) (f : BankRecord → BankRecord) :
    (modifyRankBanks r f s).refreshHold = s.refreshHold := rfl
@[simp] theorem modifyRankBanks_window (r : Rank) (f : BankRecord → BankRecord) :
    (modifyRankBanks r f s).window = s.window := rfl
@[simp] theorem modifyRankBanks_ranks (r : Rank) (f : BankRecord → BankRecord) :
    (modifyRankBanks r f s).ranks = s.ranks := rfl
@[simp] theorem modifyRankBanks_holds (r : Rank) (f : BankRecord → BankRecord) :
    (modifyRankBanks r f s).holds = s.holds := rfl
@[simp] theorem modifyRankBanks_arbiter (r : Rank) (f : BankRecord → BankRecord) :
    (modifyRankBanks r f s).arbiter = s.arbiter := rfl
@[simp] theorem modifyRankBanks_refresh (r : Rank) (f : BankRecord → BankRecord) :
    (modifyRankBanks r f s).refresh = s.refresh := rfl
@[simp] theorem modifyRankBanks_pattern (r : Rank) (f : BankRecord → BankRecord) :
    (modifyRankBanks r f s).pattern = s.pattern := rfl
@[simp] theorem modifyRankBanks_reads (r : Rank) (f : BankRecord → BankRecord) :
    (modifyRankBanks r f s).reads = s.reads := rfl
@[simp] theorem modifyRankBanks_failLog (r : Rank) (f : BankRecord → BankRecord) :
    (modifyRankBanks r f s).failLog = s.failLog := rfl
@[simp] theorem modifyRankBanks_sweep (r : Rank) (f : BankRecord → BankRecord) :
    (modifyRankBanks r f s).sweep = s.sweep := rfl
@[simp] theorem modifyRankBanks_run (r : Rank) (f : BankRecord → BankRecord) :
    (modifyRankBanks r f s).run = s.run := rfl
@[simp] theorem modifyRankBanks_messages (r : Rank) (f : BankRecord → BankRecord) :
    (modifyRankBanks r f s).messages = s.messages := rfl
@[simp] theorem modifyRankBanks_capture (r : Rank) (f : BankRecord → BankRecord) :
    (modifyRankBanks r f s).capture = s.capture := rfl
@[simp] theorem rankAt_modifyRankBanks (r : Rank) (f : BankRecord → BankRecord) (x : Rank) :
    rankAt (modifyRankBanks r f s) x = rankAt s x := rfl
@[simp] theorem tclk_modifyRankBanks (r : Rank) (f : BankRecord → BankRecord) (x : TimingParam) :
    tclk (modifyRankBanks r f s) x = tclk s x := rfl

/-! ## mapBanks -/

@[simp] theorem mapBanks_pending (f : BankRecord → BankRecord) :
    (mapBanks f s).pending = s.pending := rfl
@[simp] theorem mapBanks_host (f : BankRecord → BankRecord) : (mapBanks f s).host = s.host := rfl
@[simp] theorem mapBanks_timing (f : BankRecord → BankRecord) :
    (mapBanks f s).timing = s.timing := rfl
@[simp] theorem mapBanks_intake (f : BankRecord → BankRecord) :
    (mapBanks f s).intake = s.intake := rfl
@[simp] theorem mapBanks_expander (f : BankRecord → BankRecord) :
    (mapBanks f s).expander = s.expander := rfl
@[simp] theorem mapBanks_refreshHold (f : BankRecord → BankRecord) :
    (mapBanks f s).refreshHold = s.refreshHold := rfl
@[simp] theorem mapBanks_window (f : BankRecord → BankRecord) :
    (mapBanks f s).window = s.window := rfl
@[simp] theorem mapBanks_ranks (f : BankRecord → BankRecord) : (mapBanks f s).ranks = s.ranks := rfl
@[simp] theorem mapBanks_holds (f : BankRecord → BankRecord) : (mapBanks f s).holds = s.holds := rfl
@[simp] theorem mapBanks_arbiter (f : BankRecord → BankRecord) :
    (mapBanks f s).arbiter = s.arbiter := rfl
@[simp] theorem mapBanks_refresh (f : BankRecord → BankRecord) :
    (mapBanks f s).refresh = s.refresh := rfl
@[simp] theorem mapBanks_pattern (f : BankRecord → BankRecord) :
    (mapBanks f s).pattern = s.pattern := rfl
@[simp] theorem mapBanks_reads (f : BankRecord → BankRecord) : (mapBanks f s).reads = s.reads := rfl
@[simp] theorem mapBanks_failLog (f : BankRecord → BankRecord) :
    (mapBanks f s).failLog = s.failLog := rfl
@[simp] theorem mapBanks_sweep (f : BankRecord → BankRecord) : (mapBanks f s).sweep = s.sweep := rfl
@[simp] theorem mapBanks_run (f : BankRecord → BankRecord) : (mapBanks f s).run = s.run := rfl
@[simp] theorem mapBanks_messages (f : BankRecord → BankRecord) :
    (mapBanks f s).messages = s.messages := rfl
@[simp] theorem mapBanks_capture (f : BankRecord → BankRecord) :
    (mapBanks f s).capture = s.capture := rfl
@[simp] theorem rankAt_mapBanks (f : BankRecord → BankRecord) (x : Rank) :
    rankAt (mapBanks f s) x = rankAt s x := rfl
@[simp] theorem tclk_mapBanks (f : BankRecord → BankRecord) (x : TimingParam) :
    tclk (mapBanks f s) x = tclk s x := rfl

/-! ## modifyRank -/

@[simp] theorem modifyRank_pending (r : Rank) (f : RankRecord → RankRecord) :
    (modifyRank r f s).pending = s.pending := rfl
@[simp] theorem modifyRank_host (r : Rank) (f : RankRecord → RankRecord) :
    (modifyRank r f s).host = s.host := rfl
@[simp] theorem modifyRank_timing (r : Rank) (f : RankRecord → RankRecord) :
    (modifyRank r f s).timing = s.timing := rfl
@[simp] theorem modifyRank_intake (r : Rank) (f : RankRecord → RankRecord) :
    (modifyRank r f s).intake = s.intake := rfl
@[simp] theorem modifyRank_expander (r : Rank) (f : RankRecord → RankRecord) :
    (modifyRank r f s).expander = s.expander := rfl
@[simp] theorem modifyRank_refreshHold (r : Rank) (f : RankRecord → RankRecord) :
    (modifyRank r f s).refreshHold = s.refreshHold := rfl
@[simp] theorem modifyRank_window (r : Rank) (f : RankRecord → RankRecord) :
    (modifyRank r f s).window = s.window := rfl
@[simp] theorem modifyRank_banks (r : Rank) (f : RankRecord → RankRecord) :
    (modifyRank r f s).banks = s.banks := rfl
@[simp] theorem modifyRank_ranks (r : Rank) (f : RankRecord → RankRecord) :
    (modifyRank r f s).ranks = s.ranks.modify r f := rfl
@[simp] theorem modifyRank_holds (r : Rank) (f : RankRecord → RankRecord) :
    (modifyRank r f s).holds = s.holds := rfl
@[simp] theorem modifyRank_arbiter (r : Rank) (f : RankRecord → RankRecord) :
    (modifyRank r f s).arbiter = s.arbiter := rfl
@[simp] theorem modifyRank_refresh (r : Rank) (f : RankRecord → RankRecord) :
    (modifyRank r f s).refresh = s.refresh := rfl
@[simp] theorem modifyRank_pattern (r : Rank) (f : RankRecord → RankRecord) :
    (modifyRank r f s).pattern = s.pattern := rfl
@[simp] theorem modifyRank_reads (r : Rank) (f : RankRecord → RankRecord) :
    (modifyRank r f s).reads = s.reads := rfl
@[simp] theorem modifyRank_failLog (r : Rank) (f : RankRecord → RankRecord) :
    (modifyRank r f s).failLog = s.failLog := rfl
@[simp] theorem modifyRank_sweep (r : Rank) (f : RankRecord → RankRecord) :
    (modifyRank r f s).sweep = s.sweep := rfl
@[simp] theorem modifyRank_run (r : Rank) (f : RankRecord → RankRecord) :
    (modifyRank r f s).run = s.run := rfl
@[simp] theorem modifyRank_messages (r : Rank) (f : RankRecord → RankRecord) :
    (modifyRank r f s).messages = s.messages := rfl
@[simp] theorem modifyRank_capture (r : Rank) (f : RankRecord → RankRecord) :
    (modifyRank r f s).capture = s.capture := rfl
@[simp] theorem bankAt_modifyRank (r : Rank) (f : RankRecord → RankRecord) (x : BankAddr) :
    bankAt (modifyRank r f s) x = bankAt s x := rfl
@[simp] theorem tclk_modifyRank (r : Rank) (f : RankRecord → RankRecord) (x : TimingParam) :
    tclk (modifyRank r f s) x = tclk s x := rfl

/-! ## startHold -/

@[simp] theorem startHold_pending (i : HoldId) (v : Nat) :
    (startHold i v s).pending = s.pending := rfl
@[simp] theorem startHold_host (i : HoldId) (v : Nat) : (startHold i v s).host = s.host := rfl
@[simp] theorem startHold_timing (i : HoldId) (v : Nat) : (startHold i v s).timing = s.timing := rfl
@[simp] theorem startHold_intake (i : HoldId) (v : Nat) : (startHold i v s).intake = s.intake := rfl
@[simp] theorem startHold_expander (i : HoldId) (v : Nat) :
    (startHold i v s).expander = s.expander := rfl
@[simp] theorem startHold_refreshHold (i : HoldId) (v : Nat) :
    (startHold i v s).refreshHold = s.refreshHold := rfl
@[simp] theorem startHold_window (i : HoldId) (v : Nat) : (startHold i v s).window = s.window := rfl
@[simp] theorem startHold_banks (i : HoldId) (v : Nat) : (startHold i v s).banks = s.banks := rfl
@[simp] theorem startHold_ranks (i : HoldId) (v : Nat) : (startHold i v s).ranks = s.ranks := rfl
@[simp] theorem startHold_holds (i : HoldId) (v : Nat) :
    (startHold i v s).holds = s.holds.modify i fun t => t.extend v := rfl
@[simp] theorem startHold_arbiter (i : HoldId) (v : Nat) :
    (startHold i v s).arbiter = s.arbiter := rfl
@[simp] theorem startHold_refresh (i : HoldId) (v : Nat) :
    (startHold i v s).refresh = s.refresh := rfl
@[simp] theorem startHold_pattern (i : HoldId) (v : Nat) :
    (startHold i v s).pattern = s.pattern := rfl
@[simp] theorem startHold_reads (i : HoldId) (v : Nat) : (startHold i v s).reads = s.reads := rfl
@[simp] theorem startHold_failLog (i : HoldId) (v : Nat) :
    (startHold i v s).failLog = s.failLog := rfl
@[simp] theorem startHold_sweep (i : HoldId) (v : Nat) : (startHold i v s).sweep = s.sweep := rfl
@[simp] theorem startHold_run (i : HoldId) (v : Nat) : (startHold i v s).run = s.run := rfl
@[simp] theorem startHold_messages (i : HoldId) (v : Nat) :
    (startHold i v s).messages = s.messages := rfl
@[simp] theorem startHold_capture (i : HoldId) (v : Nat) :
    (startHold i v s).capture = s.capture := rfl
@[simp] theorem bankAt_startHold (i : HoldId) (v : Nat) (x : BankAddr) :
    bankAt (startHold i v s) x = bankAt s x := rfl
@[simp] theorem rankAt_startHold (i : HoldId) (v : Nat) (x : Rank) :
    rankAt (startHold i v s) x = rankAt s x := rfl
@[simp] theorem tclk_startHold (i : HoldId) (v : Nat) (x : TimingParam) :
    tclk (startHold i v s) x = tclk s x := rfl

/-! ## driveBus -/

@[simp] theorem driveBus_pending (b : CommandBus) : (driveBus b s).pending = s.pending := rfl
@[simp] theorem driveBus_host (b : CommandBus) : (driveBus b s).host = s.host := rfl
@[simp] theorem driveBus_timing (b : CommandBus) : (driveBus b s).timing = s.timing := rfl
@[simp] theorem driveBus_intake (b : CommandBus) : (driveBus b s).intake = s.intake := rfl
@[simp] theorem driveBus_expander (b : CommandBus) : (driveBus b s).expander = s.expander := rfl
@[simp] theorem driveBus_refreshHold (b : CommandBus) :
    (driveBus b s).refreshHold = s.refreshHold := rfl
@[simp] theorem driveBus_window (b : CommandBus) : (driveBus b s).window = s.window := rfl
@[simp] theorem driveBus_banks (b : CommandBus) : (driveBus b s).banks = s.banks := rfl
@[simp] theorem driveBus_ranks (b : CommandBus) : (driveBus b s).ranks = s.ranks := rfl
@[simp] theorem driveBus_holds (b : CommandBus) : (driveBus b s).holds = s.holds := rfl
@[simp] theorem driveBus_arbiter (b : CommandBus) :
    (driveBus b s).arbiter = { s.arbiter with bus := b } := rfl
@[simp] theorem driveBus_refresh (b : CommandBus) : (driveBus b s).refresh = s.refresh := rfl
@[simp] theorem driveBus_pattern (b : CommandBus) : (driveBus b s).pattern = s.pattern := rfl
@[simp] theorem driveBus_reads (b : CommandBus) : (driveBus b s).reads = s.reads := rfl
@[simp] theorem driveBus_failLog (b : CommandBus) : (driveBus b s).failLog = s.failLog := rfl
@[simp] theorem driveBus_sweep (b : CommandBus) : (driveBus b s).sweep = s.sweep := rfl
@[simp] theorem driveBus_run (b : CommandBus) : (driveBus b s).run = s.run := rfl
@[simp] theorem driveBus_messages (b : CommandBus) : (driveBus b s).messages = s.messages := rfl
@[simp] theorem driveBus_capture (b : CommandBus) : (driveBus b s).capture = s.capture := rfl
@[simp] theorem bankAt_driveBus (b : CommandBus) (x : BankAddr) :
    bankAt (driveBus b s) x = bankAt s x := rfl
@[simp] theorem rankAt_driveBus (b : CommandBus) (x : Rank) :
    rankAt (driveBus b s) x = rankAt s x := rfl
@[simp] theorem tclk_driveBus (b : CommandBus) (x : TimingParam) :
    tclk (driveBus b s) x = tclk s x := rfl

/-! ## recordRung -/

@[simp] theorem recordRung_pending (n : Nat) : (recordRung n s).pending = s.pending := rfl
@[simp] theorem recordRung_host (n : Nat) : (recordRung n s).host = s.host := rfl
@[simp] theorem recordRung_timing (n : Nat) : (recordRung n s).timing = s.timing := rfl
@[simp] theorem recordRung_intake (n : Nat) : (recordRung n s).intake = s.intake := rfl
@[simp] theorem recordRung_expander (n : Nat) : (recordRung n s).expander = s.expander := rfl
@[simp] theorem recordRung_refreshHold (n : Nat) :
    (recordRung n s).refreshHold = s.refreshHold := rfl
@[simp] theorem recordRung_window (n : Nat) : (recordRung n s).window = s.window := rfl
@[simp] theorem recordRung_banks (n : Nat) : (recordRung n s).banks = s.banks := rfl
@[simp] theorem recordRung_ranks (n : Nat) : (recordRung n s).ranks = s.ranks := rfl
@[simp] theorem recordRung_holds (n : Nat) : (recordRung n s).holds = s.holds := rfl
@[simp] theorem recordRung_arbiter (n : Nat) :
    (recordRung n s).arbiter = { s.arbiter with lastRung := n } := rfl
@[simp] theorem recordRung_refresh (n : Nat) : (recordRung n s).refresh = s.refresh := rfl
@[simp] theorem recordRung_pattern (n : Nat) : (recordRung n s).pattern = s.pattern := rfl
@[simp] theorem recordRung_reads (n : Nat) : (recordRung n s).reads = s.reads := rfl
@[simp] theorem recordRung_failLog (n : Nat) : (recordRung n s).failLog = s.failLog := rfl
@[simp] theorem recordRung_sweep (n : Nat) : (recordRung n s).sweep = s.sweep := rfl
@[simp] theorem recordRung_run (n : Nat) : (recordRung n s).run = s.run := rfl
@[simp] theorem recordRung_messages (n : Nat) : (recordRung n s).messages = s.messages := rfl
@[simp] theorem recordRung_capture (n : Nat) : (recordRung n s).capture = s.capture := rfl
@[simp] theorem bankAt_recordRung (n : Nat) (x : BankAddr) :
    bankAt (recordRung n s) x = bankAt s x := rfl
@[simp] theorem rankAt_recordRung (n : Nat) (x : Rank) :
    rankAt (recordRung n s) x = rankAt s x := rfl
@[simp] theorem tclk_recordRung (n : Nat) (x : TimingParam) :
    tclk (recordRung n s) x = tclk s x := rfl

/-! ## sendHalt -/

@[simp] theorem sendHalt_pending (c : HaltCause) : (sendHalt c s).pending = s.pending := rfl
@[simp] theorem sendHalt_host (c : HaltCause) : (sendHalt c s).host = s.host := rfl
@[simp] theorem sendHalt_timing (c : HaltCause) : (sendHalt c s).timing = s.timing := rfl
@[simp] theorem sendHalt_intake (c : HaltCause) : (sendHalt c s).intake = s.intake := rfl
@[simp] theorem sendHalt_expander (c : HaltCause) : (sendHalt c s).expander = s.expander := rfl
@[simp] theorem sendHalt_refreshHold (c : HaltCause) :
    (sendHalt c s).refreshHold = s.refreshHold := rfl
@[simp] theorem sendHalt_window (c : HaltCause) : (sendHalt c s).window = s.window := rfl
@[simp] theorem sendHalt_banks (c : HaltCause) : (sendHalt c s).banks = s.banks := rfl
@[simp] theorem sendHalt_ranks (c : HaltCause) : (sendHalt c s).ranks = s.ranks := rfl
@[simp] theorem sendHalt_holds (c : HaltCause) : (sendHalt c s).holds = s.holds := rfl
@[simp] theorem sendHalt_arbiter (c : HaltCause) : (sendHalt c s).arbiter = s.arbiter := rfl
@[simp] theorem sendHalt_refresh (c : HaltCause) : (sendHalt c s).refresh = s.refresh := rfl
@[simp] theorem sendHalt_pattern (c : HaltCause) : (sendHalt c s).pattern = s.pattern := rfl
@[simp] theorem sendHalt_reads (c : HaltCause) : (sendHalt c s).reads = s.reads := rfl
@[simp] theorem sendHalt_failLog (c : HaltCause) : (sendHalt c s).failLog = s.failLog := rfl
@[simp] theorem sendHalt_sweep (c : HaltCause) : (sendHalt c s).sweep = s.sweep := rfl
@[simp] theorem sendHalt_run (c : HaltCause) : (sendHalt c s).run = s.run := rfl
@[simp] theorem sendHalt_messages (c : HaltCause) :
    (sendHalt c s).messages = { s.messages with haltRequests := s.messages.haltRequests ++ [c] } := rfl
@[simp] theorem sendHalt_capture (c : HaltCause) : (sendHalt c s).capture = s.capture := rfl
@[simp] theorem bankAt_sendHalt (c : HaltCause) (x : BankAddr) :
    bankAt (sendHalt c s) x = bankAt s x := rfl
@[simp] theorem rankAt_sendHalt (c : HaltCause) (x : Rank) :
    rankAt (sendHalt c s) x = rankAt s x := rfl
@[simp] theorem tclk_sendHalt (c : HaltCause) (x : TimingParam) :
    tclk (sendHalt c s) x = tclk s x := rfl

/-! ## sendOffer -/

@[simp] theorem sendOffer_pending (o : Offer) : (sendOffer o s).pending = s.pending := rfl
@[simp] theorem sendOffer_host (o : Offer) : (sendOffer o s).host = s.host := rfl
@[simp] theorem sendOffer_timing (o : Offer) : (sendOffer o s).timing = s.timing := rfl
@[simp] theorem sendOffer_intake (o : Offer) : (sendOffer o s).intake = s.intake := rfl
@[simp] theorem sendOffer_expander (o : Offer) : (sendOffer o s).expander = s.expander := rfl
@[simp] theorem sendOffer_refreshHold (o : Offer) :
    (sendOffer o s).refreshHold = s.refreshHold := rfl
@[simp] theorem sendOffer_window (o : Offer) : (sendOffer o s).window = s.window := rfl
@[simp] theorem sendOffer_banks (o : Offer) : (sendOffer o s).banks = s.banks := rfl
@[simp] theorem sendOffer_ranks (o : Offer) : (sendOffer o s).ranks = s.ranks := rfl
@[simp] theorem sendOffer_holds (o : Offer) : (sendOffer o s).holds = s.holds := rfl
@[simp] theorem sendOffer_arbiter (o : Offer) : (sendOffer o s).arbiter = s.arbiter := rfl
@[simp] theorem sendOffer_refresh (o : Offer) : (sendOffer o s).refresh = s.refresh := rfl
@[simp] theorem sendOffer_pattern (o : Offer) : (sendOffer o s).pattern = s.pattern := rfl
@[simp] theorem sendOffer_reads (o : Offer) : (sendOffer o s).reads = s.reads := rfl
@[simp] theorem sendOffer_failLog (o : Offer) : (sendOffer o s).failLog = s.failLog := rfl
@[simp] theorem sendOffer_sweep (o : Offer) : (sendOffer o s).sweep = s.sweep := rfl
@[simp] theorem sendOffer_run (o : Offer) : (sendOffer o s).run = s.run := rfl
@[simp] theorem sendOffer_messages (o : Offer) :
    (sendOffer o s).messages = { s.messages with offers := s.messages.offers ++ [o] } := rfl
@[simp] theorem sendOffer_capture (o : Offer) : (sendOffer o s).capture = s.capture := rfl
@[simp] theorem bankAt_sendOffer (o : Offer) (x : BankAddr) :
    bankAt (sendOffer o s) x = bankAt s x := rfl
@[simp] theorem rankAt_sendOffer (o : Offer) (x : Rank) :
    rankAt (sendOffer o s) x = rankAt s x := rfl
@[simp] theorem tclk_sendOffer (o : Offer) (x : TimingParam) :
    tclk (sendOffer o s) x = tclk s x := rfl

/-! ## raiseFlag -/

@[simp] theorem raiseFlag_pending (f : Flag) : (raiseFlag f s).pending = s.pending := rfl
@[simp] theorem raiseFlag_host (f : Flag) : (raiseFlag f s).host = s.host := rfl
@[simp] theorem raiseFlag_timing (f : Flag) : (raiseFlag f s).timing = s.timing := rfl
@[simp] theorem raiseFlag_intake (f : Flag) : (raiseFlag f s).intake = s.intake := rfl
@[simp] theorem raiseFlag_expander (f : Flag) : (raiseFlag f s).expander = s.expander := rfl
@[simp] theorem raiseFlag_refreshHold (f : Flag) :
    (raiseFlag f s).refreshHold = s.refreshHold := rfl
@[simp] theorem raiseFlag_window (f : Flag) : (raiseFlag f s).window = s.window := rfl
@[simp] theorem raiseFlag_banks (f : Flag) : (raiseFlag f s).banks = s.banks := rfl
@[simp] theorem raiseFlag_ranks (f : Flag) : (raiseFlag f s).ranks = s.ranks := rfl
@[simp] theorem raiseFlag_holds (f : Flag) : (raiseFlag f s).holds = s.holds := rfl
@[simp] theorem raiseFlag_arbiter (f : Flag) : (raiseFlag f s).arbiter = s.arbiter := rfl
@[simp] theorem raiseFlag_refresh (f : Flag) : (raiseFlag f s).refresh = s.refresh := rfl
@[simp] theorem raiseFlag_pattern (f : Flag) : (raiseFlag f s).pattern = s.pattern := rfl
@[simp] theorem raiseFlag_reads (f : Flag) : (raiseFlag f s).reads = s.reads := rfl
@[simp] theorem raiseFlag_failLog (f : Flag) : (raiseFlag f s).failLog = s.failLog := rfl
@[simp] theorem raiseFlag_sweep (f : Flag) : (raiseFlag f s).sweep = s.sweep := rfl
@[simp] theorem raiseFlag_run (f : Flag) :
    (raiseFlag f s).run = { s.run with flags := s.run.flags ||| f.mask } := rfl
@[simp] theorem raiseFlag_messages (f : Flag) : (raiseFlag f s).messages = s.messages := rfl
@[simp] theorem raiseFlag_capture (f : Flag) : (raiseFlag f s).capture = s.capture := rfl
@[simp] theorem bankAt_raiseFlag (f : Flag) (x : BankAddr) :
    bankAt (raiseFlag f s) x = bankAt s x := rfl
@[simp] theorem rankAt_raiseFlag (f : Flag) (x : Rank) :
    rankAt (raiseFlag f s) x = rankAt s x := rfl
@[simp] theorem tclk_raiseFlag (f : Flag) (x : TimingParam) :
    tclk (raiseFlag f s) x = tclk s x := rfl

/-! ## The queue of commands -/

@[simp] theorem withPending_pending (q : List Instr) : (s.withPending q).pending = q := rfl
@[simp] theorem withPending_host (q : List Instr) : (s.withPending q).host = s.host := rfl
@[simp] theorem withPending_timing (q : List Instr) : (s.withPending q).timing = s.timing := rfl
@[simp] theorem withPending_intake (q : List Instr) : (s.withPending q).intake = s.intake := rfl
@[simp] theorem withPending_expander (q : List Instr) :
    (s.withPending q).expander = s.expander := rfl
@[simp] theorem withPending_refreshHold (q : List Instr) :
    (s.withPending q).refreshHold = s.refreshHold := rfl
@[simp] theorem withPending_window (q : List Instr) : (s.withPending q).window = s.window := rfl
@[simp] theorem withPending_banks (q : List Instr) : (s.withPending q).banks = s.banks := rfl
@[simp] theorem withPending_ranks (q : List Instr) : (s.withPending q).ranks = s.ranks := rfl
@[simp] theorem withPending_holds (q : List Instr) : (s.withPending q).holds = s.holds := rfl
@[simp] theorem withPending_arbiter (q : List Instr) : (s.withPending q).arbiter = s.arbiter := rfl
@[simp] theorem withPending_refresh (q : List Instr) : (s.withPending q).refresh = s.refresh := rfl
@[simp] theorem withPending_pattern (q : List Instr) : (s.withPending q).pattern = s.pattern := rfl
@[simp] theorem withPending_reads (q : List Instr) : (s.withPending q).reads = s.reads := rfl
@[simp] theorem withPending_failLog (q : List Instr) : (s.withPending q).failLog = s.failLog := rfl
@[simp] theorem withPending_sweep (q : List Instr) : (s.withPending q).sweep = s.sweep := rfl
@[simp] theorem withPending_run (q : List Instr) : (s.withPending q).run = s.run := rfl
@[simp] theorem withPending_messages (q : List Instr) :
    (s.withPending q).messages = s.messages := rfl
@[simp] theorem withPending_capture (q : List Instr) : (s.withPending q).capture = s.capture := rfl

end Updates

end Sys2Proof.Machine
end

