-- ==== Sys2Proof/Laws/Issue.lean ====
section
/-! SUPPORT. Everything the issue of an access changes, in one equation each for a READ and a WRITE, and
what a chosen command satisfies. -/

namespace Sys2Proof.Machine

/-- A close-after access adds its bank to the pending close order, and nothing else. -/
theorem joinPendingClose_eq (a : Access) (s : State) :
    joinPendingClose a s = { s with
      arbiter.pendingClose :=
        s.arbiter.pendingClose ++ (if a.closeAfter then [a.addr.bank] else []) } := by
  unfold joinPendingClose
  split <;> simp

/-- The holds that a READ and a WRITE both start. -/
def Holds.startAccess (h : Holds) (b : BankAddr) (setGap rankGap switchGap lane : Nat) : Holds :=
  (((h.modify (.setAccess b.rank b.bankSet) fun t => t.extend setGap).modify (.rankAccess b.rank)
    fun t => t.extend rankGap).modify (.rankSwitch (otherRank b.rank)) fun t => t.extend switchGap).modify
      .dataLane fun t => t.extend lane

theorem startReadHolds_eq (b : BankAddr) (s : State) :
    startReadHolds b s = { s with
      holds := (s.holds.startAccess b (tclk s .accessGapSameSet) (tclk s .accessGapOtherSet)
        (tclk s .rankSwitchGap) (tclk s .readLatency + Config.dataPhase)).modify (.readToWrite b.rank)
          fun t => t.extend (tclk s .readToWrite) } := by
  simp only [startReadHolds, startAccessHolds, startHold, Holds.startAccess, tclk]

theorem startWriteHolds_eq (b : BankAddr) (s : State) :
    startWriteHolds b s = { s with
      holds := ((s.holds.startAccess b (tclk s .accessGapSameSet) (tclk s .accessGapOtherSet)
        (tclk s .rankSwitchGap) (tclk s .writeLatency + Config.dataPhase)).modify
          (.setWriteToRead b.rank b.bankSet)
            fun t => t.extend (tclk s .writeLatency + Config.dataPhase + tclk s .writeToReadSameSet)).modify
          (.rankWriteToRead b.rank)
            fun t => t.extend (tclk s .writeLatency + Config.dataPhase + tclk s .writeToReadOtherSet) } := by
  simp only [startWriteHolds, startAccessHolds, startHold, Holds.startAccess, tclk]

/-- Everything the issue of a READ changes. -/
theorem issueRead_eq (a : Access) (s : State) :
    issueRead a s = { s with
      window := takeFromWindow (passedOver s a) a [] s.window
      intake.queue := s.intake.queue.map fun d =>
        if d.seq = a.seq then { d with issued := d.issued + 1 } else d
      banks := (modifyBank a.addr.bank (fun k => k.readIssued a.closeAfter) s).banks
      holds := (startReadHolds a.addr.bank s).holds
      reads.inFlight := s.reads.inFlight ++ [a.inFlight (tclk s .readTimeout)]
      arbiter.pendingClose :=
        s.arbiter.pendingClose ++ (if a.closeAfter then [a.addr.bank] else [])
      run.stats.readsIssued := satInc s.run.stats.readsIssued } := by
  simp only [issueRead, joinPendingClose_eq, startReadHolds_eq, countIssued, leaveWindow, modifyBank,
    modifyDescriptor, tclk]

/-- Everything the issue of a WRITE changes. -/
theorem issueWrite_eq (a : Access) (s : State) :
    issueWrite a s = { s with
      window := takeFromWindow (passedOver s a) a [] s.window
      intake.queue := s.intake.queue.map fun d =>
        if d.seq = a.seq then { d with issued := d.issued + 1 } else d
      banks := (modifyBank a.addr.bank (fun k => k.writeIssued a.closeAfter) s).banks
      holds := (startWriteHolds a.addr.bank s).holds
      reads.writePhases :=
        s.reads.writePhases ++ [a.writePhase (tclk s .writeLatency + Config.dataPhase)]
      arbiter.pendingClose :=
        s.arbiter.pendingClose ++ (if a.closeAfter then [a.addr.bank] else [])
      run.stats.writesIssued := satInc s.run.stats.writesIssued } := by
  simp only [issueWrite, joinPendingClose_eq, startWriteHolds_eq, countIssued, leaveWindow, modifyBank,
    modifyDescriptor, tclk]

/-- With a command chosen, the opportunity is its issue. -/
theorem takeOpportunity_some {s : State} {n : Nat} {c : ArrayCommand} (h : choose s = some (n, c)) :
    takeOpportunity s = issue n c s := by
  unfold takeOpportunity
  rw [h]

/-- A chosen command stands on its rung, is eligible and is not withheld, and no settle period is in
progress. -/
theorem choose_some {s : State} {n : Nat} {c : ArrayCommand} (h : choose s = some (n, c)) :
    settling s = false ∧ n ∈ rungsFor s.run.state ∧ c ∈ rung s n ∧ eligible s c = true ∧
      withheld s c = false := by
  unfold choose at h
  split at h
  · simp at h
  · next hs =>
    have h1 := List.find?_some h
    have h2 := List.mem_of_find?_eq_some h
    simp only [ladder, List.mem_flatMap, List.mem_map, Prod.mk.injEq] at h2
    obtain ⟨m, hm, x, hx, rfl, rfl⟩ := h2
    simp only [issuable, Bool.and_eq_true, Bool.not_eq_true'] at h1
    exact ⟨by simpa using hs, hm, hx, h1.1, h1.2⟩

end Sys2Proof.Machine
end

