-- ==== Sys2Proof/Laws/Settle.lean ====
section
/-! SUPPORT. What bounds the length of a settle period, and where that length is taken from (R164). -/

namespace Sys2Proof.Machine

/-! ## The largest of a list -/

theorem foldl_max_le_iff {α : Type} (f : α → Nat) (l : List α) (a n : Nat) :
    l.foldl (fun m x => max m (f x)) a ≤ n ↔ a ≤ n ∧ ∀ x ∈ l, f x ≤ n := by
  induction l generalizing a with
  | nil => simp
  | cons x l ih => simp [ih, and_assoc]

theorem foldl_max_attained {α : Type} (f : α → Nat) (l : List α) (a : Nat) :
    l.foldl (fun m x => max m (f x)) a = a ∨ ∃ x ∈ l, l.foldl (fun m x => max m (f x)) a = f x := by
  induction l generalizing a with
  | nil => exact .inl rfl
  | cons x l ih =>
    rw [List.foldl_cons]
    rcases ih (max a (f x)) with h | ⟨y, hy, h⟩
    · rw [h]
      rcases Nat.le_total a (f x) with hx | hx
      · exact .inr ⟨x, List.mem_cons_self, Nat.max_eq_right hx⟩
      · exact .inl (Nat.max_eq_left hx)
    · exact .inr ⟨y, List.mem_cons_of_mem x hy, h⟩

theorem max_eq_or (a b : Nat) : max a b = a ∨ max a b = b := by omega

/-! ## The longest timer of the bank table -/

/-- A bound of the longest timer is a bound of every restore, write recovery, close and refresh time. -/
theorem longestTableTimer_le_iff (s : State) (n : Nat) :
    longestTableTimer s ≤ n ↔
      (∀ r, (rankAt s r).refreshTime.remaining ≤ n) ∧
        ∀ b, (bankAt s b).restore.remaining ≤ n ∧ (bankAt s b).writeRecovery.remaining ≤ n ∧
          (bankAt s b).closeTime.remaining ≤ n := by
  unfold longestTableTimer
  rw [foldl_max_le_iff fun b : BankRecord =>
    max b.restore.remaining (max b.writeRecovery.remaining b.closeTime.remaining)]
  simp only [List.mem_flatMap, mem_bothRanks, true_and, mem_rankBankRecords, Nat.max_le]
  constructor
  · rintro ⟨⟨h0, h1⟩, hb⟩
    exact ⟨fun r => by cases r; exacts [h0, h1], fun b => hb _ ⟨b.rank, b, rfl, rfl⟩⟩
  · rintro ⟨hr, hb⟩
    refine ⟨⟨hr .r0, hr .r1⟩, ?_⟩
    rintro _ ⟨_, b, _, rfl⟩
    exact hb b

/-- The longest timer is one of the timers. -/
theorem longestTableTimer_attained (s : State) :
    (∃ r, longestTableTimer s = (rankAt s r).refreshTime.remaining) ∨
      ∃ b, longestTableTimer s = (bankAt s b).restore.remaining ∨
        longestTableTimer s = (bankAt s b).writeRecovery.remaining ∨
        longestTableTimer s = (bankAt s b).closeTime.remaining := by
  unfold longestTableTimer
  rcases foldl_max_attained
      (fun b : BankRecord => max b.restore.remaining (max b.writeRecovery.remaining b.closeTime.remaining))
      (bothRanks.flatMap (rankBankRecords s))
      (max s.ranks.r0.refreshTime.remaining s.ranks.r1.refreshTime.remaining) with h | ⟨k, hk, h⟩
  · rw [h]
    rcases max_eq_or s.ranks.r0.refreshTime.remaining s.ranks.r1.refreshTime.remaining with e | e
    · exact .inl ⟨.r0, e⟩
    · exact .inl ⟨.r1, e⟩
  · simp only [List.mem_flatMap, mem_bothRanks, true_and, mem_rankBankRecords] at hk
    obtain ⟨_, b, _, rfl⟩ := hk
    rw [h]
    refine .inr ⟨b, ?_⟩
    omega

/-! ## The length a SOFT_RESET starts -/

/-- A SOFT_RESET in a settle period never shortens it (R164). -/
theorem fullSettleLength_le_settleLength (s : State) (p : Settle) (h : s.run.settle = some p) :
    p.length ≤ settleLength s := by
  have hp : fullSettleLength s = p.length := by simp [fullSettleLength, h]
  exact hp ▸ Nat.le_max_left _ _

/-- A SOFT_RESET starts a settle period of `settleLength`, of which nothing has run. -/
theorem softResetCommand_settle (s : State) :
    (softResetCommand s).run.settle = some ⟨0, settleLength s⟩ := rfl

end Sys2Proof.Machine
end

