-- ==== Sys2Proof/Laws/Staging.lean ====
section
/-! SUPPORT. The coded fields of the staging words: which codes name no value, and which value a code names
(R9, R188). -/

namespace Sys2Proof.Machine

theorem walkOfCode_eq_none (n : Nat) : walkOfCode n = none ↔ 2 ≤ n := by
  rcases n with _ | _ | n <;> simp [walkOfCode]

theorem closePolicyOfCode_eq_none (n : Nat) : closePolicyOfCode n = none ↔ 3 ≤ n := by
  rcases n with _ | _ | _ | n <;> simp [closePolicyOfCode]

theorem formatOfCode_eq_none (n : Nat) : formatOfCode n = none ↔ 4 ≤ n := by
  rcases n with _ | _ | _ | _ | n <;> simp [formatOfCode]

theorem code_of_walkOfCode {n : Nat} {v : Walk} (h : walkOfCode n = some v) : n = v.code := by
  rcases n with _ | _ | n <;> simp only [walkOfCode, Option.some.injEq, reduceCtorEq] at h <;>
    subst h <;> rfl

theorem code_of_closePolicyOfCode {n : Nat} {v : ClosePolicy} (h : closePolicyOfCode n = some v) :
    n = v.code := by
  rcases n with _ | _ | _ | n <;> simp only [closePolicyOfCode, Option.some.injEq, reduceCtorEq] at h <;>
    subst h <;> rfl

theorem code_of_formatOfCode {n : Nat} {v : Format} (h : formatOfCode n = some v) : n = v.code := by
  rcases n with _ | _ | _ | _ | n <;> simp only [formatOfCode, Option.some.injEq, reduceCtorEq] at h <;>
    subst h <;> rfl

theorem quad_num_ofNum {n : Nat} (h : n < 4) : (Quad.ofNum n).num = n := by
  interval_cases n <;> rfl

/-- A region decodes to nothing exactly when one of its three coded fields does (R9). -/
theorem stagedRegion_eq_none (s : State) (kind : RegionKind) :
    stagedRegion s kind = none ↔
      walkOfCode (bits (stagingWord s 0) 4 2) = none ∨
        closePolicyOfCode (bits (stagingWord s 0) 6 2) = none ∨
        formatOfCode (bits (stagingWord s 0) 12 3) = none := by
  unfold stagedRegion
  cases walkOfCode (bits (stagingWord s 0) 4 2) <;>
    cases closePolicyOfCode (bits (stagingWord s 0) 6 2) <;>
    cases formatOfCode (bits (stagingWord s 0) 12 3) <;> simp

theorem stagedSweep_eq_none (s : State) :
    stagedSweep s = none ↔ formatOfCode (bits (stagingWord s 0) 12 3) = none := by
  unfold stagedSweep
  cases formatOfCode (bits (stagingWord s 0) 12 3) <;> simp

end Sys2Proof.Machine
end

