-- ==== Sys2Proof/Laws/Words.lean ====
section
/-! SUPPORT. The fields of a word read back: a field at its own place gives its value, and no other field
shows there. -/

namespace Sys2Proof.Machine

/-- The bits of a field. -/
theorem getLsbD_field (lo len v i : Nat) (h : lo + len ≤ 32) :
    (field lo len v).getLsbD i = (decide (lo ≤ i ∧ i < lo + len) && v.testBit (i - lo)) := by
  unfold field
  rw [BitVec.getLsbD_ofNat, Nat.testBit_mul_two_pow, Nat.testBit_mod_two_pow]
  by_cases h1 : lo ≤ i <;> by_cases h2 : i < lo + len
  · simp [h1, h2, show i < 32 by omega, show i - lo < len by omega]
  · simp [h1, h2, show ¬ i - lo < len by omega]
  · simp [h1]
  · simp [h1]

/-- A field read at its own place. -/
theorem extract_field (lo len v : Nat) (h : lo + len ≤ 32) :
    (field lo len v).extractLsb' lo len = BitVec.ofNat len v := by
  apply BitVec.eq_of_getLsbD_eq
  intro i hi
  rw [BitVec.getLsbD_extractLsb', getLsbD_field lo len v _ h, BitVec.getLsbD_ofNat]
  simp [hi]

/-- A field does not show at a place that it does not share. -/
theorem extract_other_field (lo len v lo' len' : Nat) (h : lo + len ≤ 32)
    (hd : lo' + len' ≤ lo ∨ lo + len ≤ lo') : (field lo len v).extractLsb' lo' len' = 0 := by
  apply BitVec.eq_of_getLsbD_eq
  intro i hi
  rw [BitVec.getLsbD_extractLsb', getLsbD_field lo len v _ h]
  rcases hd with hd | hd
  · simp [show ¬ lo ≤ lo' + i by omega]
  · simp [show ¬ lo' + i < lo + len by omega]

/-- A yes-or-no field read at its own bit. -/
theorem getLsbD_flagField (lo : Nat) (b : Bool) (h : lo < 32) : (flagField lo b).getLsbD lo = b := by
  unfold flagField
  rw [getLsbD_field lo 1 _ _ (by omega)]
  cases b <;> simp

/-- A bit that a field does not cover. -/
theorem getLsbD_other_field (lo len v i : Nat) (h : lo + len ≤ 32) (hd : i < lo ∨ lo + len ≤ i) :
    (field lo len v).getLsbD i = false := by
  rw [getLsbD_field lo len v i h]
  rcases hd with hd | hd
  · simp [show ¬ lo ≤ i by omega]
  · simp [show ¬ i < lo + len by omega]

end Sys2Proof.Machine
end

