-- ==== Sys2Proof/WellFormed.lean ====
section
/-! DEFINITION. When a command term is the spelling the table gives it. The operands' ranges are in their
types; what is left to check is that REGISTER_WRITE carries only an access that has no row of its own
(spec/opcode_table.json, REGISTER_WRITE: "a word that has no row of its own"). -/

namespace Sys2Proof

/-- REGISTER_WRITE holds for accesses without a row of their own; every other command is well formed. -/
def WellFormed (i : Instr) : Bool :=
  match i with
  | .registerWrite a => (ownRowOf a).isNone
  | _ => true

end Sys2Proof
end

