-- ==== Sys2Proof/Tests/Slice0.lean ====
section
/-! SUPPORT. Checks on fixed values: the well-formedness smoke tests, small runs of one command, and for
every obligation with hypotheses a state and operands that meet them, clause by clause. -/

namespace Sys2Proof.Tests

set_option Elab.async false

open Sys2Proof.Machine

/-! ## Small states -/

def b0 : BankAddr := ⟨.r0, .q0, .q0⟩
def b1 : BankAddr := ⟨.r0, .q1, .q2⟩

/-- Every bank CLOSED, no recovery needed, in a run state. -/
def closedTable (st : RunState) : State :=
  { State.reset with
    banks := .all (.all (.all { BankRecord.initial with state := .closed }))
    ranks := .all { RankRecord.initial with recoveryNeeded := false }
    run.state := st }

/-- `closedTable` in RUNNING with bank `b0` OPEN on row 5. -/
def openTable : State := modifyBank b0 (fun k => { k with state := .opened 5 }) (closedTable .running)

def spec0 : PatternSpec := ⟨⟨0, .uniform, false⟩, .replicate 8 0⟩

def access (op : AccessOp) (row : Nat) : Access :=
  { seq := 0, op := op, addr := ⟨b0, row, 1⟩, pattern := spec0, closeAfter := false
    sweepRead := false, bypass := 0 }

def region (walk : Walk) : Region :=
  { kind := .read, fence := true, bank := b0, rowFirst := 5, rowCount := 2, colFirst := 1, colCount := 2
    walk := walk, pattern := spec0.fields, close := .keep }

def sweepFields : SweepFields :=
  { addr := ⟨b0, 5, 1⟩, pattern := spec0.fields, lane := .q1, tapFirst := 3, tapLast := 5
    readsPerTap := 2, applyWindow := true }

def sweep (outstanding : Nat) (tap : BitVec 5) : Sweep :=
  { seq := 0, fields := sweepFields, originalTap := 16, tapUnderTest := tap, readsPlaced := 2
    readsOutstanding := outstanding, mismatches := 0, stopMark := false, abortMark := false
    endDue := false }

def desc (q : Seq) (w : Work) (l : Lifecycle) : Descriptor :=
  { seq := q, work := w, life := l, total := w.total, issued := 0, completed := 0, miscompares := 0
    lost := 0, cutShort := false, sweepResult := ⟨false, 0, 0, 0, 0⟩ }

def inFlight (sweepRead : Bool) (deadline : Nat) : InFlight := ⟨0, ⟨b0, 5, 1⟩, spec0, sweepRead, deadline⟩

def record (col : Nat) : FailRecord := ⟨⟨b0, 5, col⟩, 1, 1, 0, 0, 1⟩

def completion (d : KindDetail) : CompletionRecord := ⟨0, .read, .done, 2, 0, 0, d⟩

/-- RUNNING with a descriptor, a window access, a read in flight, a write phase, a pending close, a fail
record and a completion. -/
def busy : State :=
  { modifyBank b1 (fun k => { k with state := .opened 7, writePhases := 1 })
      (modifyBank b0 (fun k => { k with closePending := true }) openTable) with
    pending := [.commandOpportunity]
    intake := { queue := [desc 0 (.region (region .rowMajor)) .expanded], nextSeq := 1 }
    window := [access .read 5]
    reads :=
      { State.reset.reads with
        inFlight := [inFlight false 9]
        writePhases := [⟨0, ⟨b1, 7, 1⟩, spec0, 3⟩] }
    holds := { Holds.expired with dataLane := .running 3 }
    arbiter := { State.reset.arbiter with pendingClose := [b0], lastRung := 9 }
    failLog := { State.reset.failLog with records := [record 1] }
    run :=
      { (closedTable .running).run with
        completions := [completion .none], stats := { Stats.zero with readsIssued := 1 } } }

/-! ## WellFormed: an ill-formed term is refused -/

/-- A REGISTER_WRITE that carries a PUSH, which has a row of its own. -/
def pushAccess : BusAccess := ⟨true, 0x004, 0xF, 1⟩

theorem test_wellFormed_refuses_own_row : WellFormed (.registerWrite pushAccess) = false := by decide

theorem test_wellFormed_refuses_port_read : WellFormed (.registerWrite ⟨false, 0x060, 0xF, 0⟩) = false := by
  decide

theorem test_wellFormed_takes_staging : WellFormed (.registerWrite ⟨true, 0x008, 0xF, 1⟩) = true := by decide

theorem test_wellFormed_takes_code_without_command :
    WellFormed (.registerWrite ⟨true, 0x004, 0xF, 12⟩) = true := by decide

theorem test_wellFormed_takes_start : WellFormed .start = true := by decide

/-! ## Small checks -/

/-- `q` waiting at the front of the queue, run by one step. -/
theorem test_step_runs_front :
    step ((closedTable .running).withPending [.stop]) =
      exec .stop ((closedTable .running).withPending []) := by rfl

theorem test_no_word_spells_a_command : decodeTableWord 32 0 = none := by decide

theorem test_window_ends :
    wordAt 0 = some .family ∧ wordAt 0x03C = some (.staging 7) ∧ wordAt 0x10C = some (.timing .starveLimit) ∧
      wordAt 0x27C = some (.sweepEntry 31) ∧ wordAt 0x2D0 = some .badAccess ∧ wordAt 0x7FC = none := by
  decide +kernel

theorem test_staging_word_zero_of_a_region :
    (Work.region (region .columnMajor)).stagingWords[0] = 0x0000001A#32 := by decide +kernel

theorem test_geometry_reads_its_power_on_value :
    readWord State.reset .geometry = 0x00800F01#32 := by decide +kernel

/-- START of the power-on set in the power-on geometry passes validation. -/
theorem test_power_on_set_is_valid : startFault State.reset = none := by decide +kernel

/-- The timing items of START are looked at in index order. -/
theorem test_first_bad_item_is_reported :
    startFault { State.reset with
      timing.stored := { TimingSet.powerOn with openToClose := 7, starveLimit := 0 } } = some 2 := by
  decide +kernel

/-- 0xA5 in slot 0: the first two beats of every format on lanes 7 to 0. -/
theorem test_formats_first_beats :
    let burst (f : Format) := patternBurst ⟨⟨0, f, false⟩, #v[0xA5, 0, 0, 0, 0, 0, 0, 0]⟩ ⟨b0, 0, 1⟩
    (burst .uniform)[0] = 0xFFFFFFFF#32 ∧ (burst .uniform)[1] = 0#32 ∧ (burst .held)[0] = 0xA5A5A5A5#32 ∧
      (burst .rotated)[0] = 0x01010101#32 ∧ (burst .address)[0] = 0xFEFEFEFE#32 := by decide +kernel

/-- A run of good taps 1 to 2 and one of 4 to 5: the lower is found. -/
theorem test_lowest_of_equal_windows :
    longestRun (fun t => t != 0 && t != 3) [0, 1, 2, 3, 4, 5] 0 none = some (1, 2) := by decide

/-- An OPEN bank on the head's row gives a READ, on another row a CLOSE, and a CLOSED bank an OPEN. -/
theorem test_next_commands :
    nextCommand openTable (access .read 5) = some (.read (access .read 5)) ∧
      nextCommand openTable (access .write 6) = some (.close b0) ∧
      nextCommand (closedTable .running) (access .read 5) = some (.openRow b0 5) := by decide +kernel

/-! ## Hypotheses met: the laws that every step keeps -/

theorem busy_withinCapacity : WithinCapacity busy := by
  refine ⟨by decide, by decide, by decide, by decide, by decide, by decide, by decide, ?_, ?_, by decide,
    by decide⟩
  · intro r
    cases r <;> decide +kernel
  · rintro ⟨r, g, k⟩
    cases r <;> cases g <;> cases k <;> decide +kernel

theorem busy_pendingClose : PendingCloseAgrees busy := by
  refine ⟨by decide +kernel, ?_, ?_⟩
  · rintro ⟨r, g, k⟩
    cases r <;> cases g <;> cases k <;> decide +kernel
  · rintro ⟨r, g, k⟩ h
    have hb : (⟨r, g, k⟩ : BankAddr) = b0 := by
      revert h
      cases r <;> cases g <;> cases k <;> decide +kernel
    rw [hb]
    exact ⟨5, by decide +kernel⟩

theorem busy_workingSet : WorkingSetValid busy := by
  intro p
  cases p <;> decide +kernel

theorem busy_writePhases : WritePhasesCounted busy ∧ WritePhasesSpaced busy := by
  refine ⟨?_, by decide, by decide⟩
  rintro ⟨r, g, k⟩
  cases r <;> cases g <;> cases k <;> decide +kernel

theorem witness_StepKeepsCapacities :
    WithinCapacity busy ∧ WorkingSetValid busy ∧ WritePhasesSpaced busy ∧ WritePhasesCounted busy ∧
      PendingCloseAgrees busy ∧ ∃ t, step busy = .next t :=
  ⟨busy_withinCapacity, busy_workingSet, busy_writePhases.2, busy_writePhases.1, busy_pendingClose, _, rfl⟩

theorem witness_StepKeepsKeysAndSeqs :
    KeysDistinct busy ∧ SeqsConsecutive busy ∧ ∃ t, step busy = .next t := by
  refine ⟨by simp [KeysDistinct, busy], ?_, _, rfl⟩
  intro i h
  have : i = 0 := by
    simp [busy] at h
    omega
  subst this
  rfl

/-- IDLE with a descriptor WAITING, a command at the front of the queue. -/
def idleQueued (c : Instr) : State :=
  { closedTable .idle with
    pending := [c], intake := { queue := [desc 0 (.marker 7) .waiting], nextSeq := 1 } }

theorem idleQueued_quiet (c : Instr) : QuietWhenIdle (idleQueued c) := by
  refine ⟨fun _ => ⟨rfl, rfl, rfl, rfl, ?_⟩, fun _ => rfl⟩
  intro d h
  simp [idleQueued] at h
  rw [h]
  rfl

theorem witness_StepKeepsIdleQuiet :
    QuietWhenIdle (idleQueued .start) ∧ ∃ t, step (idleQueued .start) = .next t :=
  ⟨idleQueued_quiet _, _, rfl⟩

theorem witness_StepKeepsReadsBalanced :
    QuietWhenIdle busy ∧ ReadsBalanced busy ∧ ∃ t, step busy = .next t := by
  refine ⟨⟨fun h => ?_, fun h => ?_⟩, fun _ _ _ => by decide +kernel, _, rfl⟩
  · cases h
  · cases h

theorem witness_StepKeepsPendingCloseOrder : PendingCloseAgrees busy ∧ ∃ t, step busy = .next t :=
  ⟨busy_pendingClose, _, rfl⟩

theorem witness_StepKeepsRecoveryNeeded : RecoveryAgrees busy ∧ ∃ t, step busy = .next t := by
  refine ⟨?_, _, rfl⟩
  rintro ⟨r, g, k⟩
  cases r <;> cases g <;> cases k <;> decide +kernel

theorem witness_StepKeepsWorkingSetValid : WorkingSetValid busy ∧ ∃ t, step busy = .next t :=
  ⟨busy_workingSet, _, rfl⟩

theorem witness_StepKeepsWritePhasesCounted :
    WritePhasesCounted busy ∧ WorkingSetValid busy ∧ WritePhasesSpaced busy ∧ ∃ t, step busy = .next t :=
  ⟨busy_writePhases.1, busy_workingSet, busy_writePhases.2, _, rfl⟩

theorem witness_TapsChangeOnlyWithListEmpty :
    QuietWhenIdle (idleQueued (.tapWrite .q0 0xF 3)) ∧
      ∃ t, step (idleQueued (.tapWrite .q0 0xF 3)) = .next t ∧
        t.sweep.taps ≠ (idleQueued (.tapWrite .q0 0xF 3)).sweep.taps :=
  ⟨idleQueued_quiet _, _, rfl, by decide +kernel⟩

/-! ## Hypotheses met: encodings and resets -/

theorem witness_WindowOffsetsDecode : wordAt (4 * (0x0B4 : BitVec 9).toNat) = some .badAccess := by
  decide +kernel

theorem witness_StagingWordsDecode :
    (Work.region { region .rowMajor with
        rowFirst := 2 ^ 17 - 1, rowCount := 2 ^ 18 - 1, colFirst := 127, colCount := 255 }).spellable = true ∧
      (Work.pause 65535 ⟨true, true⟩).spellable = true ∧ (Work.marker 255).spellable = true ∧
      (Work.sweep { sweepFields with readsPerTap := 255 }).spellable = true := by decide

/-- Accesses with a row of their own, and without one. -/
theorem witness_BusAccessIsItsRow :
    let access (isWrite : Bool) (la : BitVec 9) (be : BitVec 4) (v : Word) : BusAccess := ⟨isWrite, la, be, v⟩
    commandOf (access true 0x004 0xF 0xFFFFFE0B) = .refreshDisable 2 ∧
      commandOf (access true 0x004 0xF 12) = .registerWrite (access true 0x004 0xF 12) ∧
      commandOf (access true 0x004 0x7 1) = .registerWrite (access true 0x004 0x7 1) ∧
      commandOf (access true 0x043 0x1 9) = .timingSetWrite .starveLimit 0x1 9 ∧
      commandOf (access false 0x063 0xF 0) = .completionPortRead .q3 0xF ∧
      commandOf (access false 0x1FF 0xF 0) = .registerWrite (access false 0x1FF 0xF 0) := by decide +kernel

theorem witness_StatusWordsHoldTheirFields :
    WithinCapacity busy ∧ busy.expander = .idle ∧
      (∃ d rest, busy.intake.queue = d :: rest) ∧ (∀ step w, busy.expander ≠ .sweeping step w) ∧
      WithinCapacity { busy with intake.queue := [], expander := .sweeping .reads (sweep 1 3) } := by
  refine ⟨busy_withinCapacity, rfl, ⟨_, _, rfl⟩, fun _ _ h => (by cases h), ?_⟩
  obtain ⟨_, h⟩ := busy_withinCapacity
  exact ⟨by decide, h⟩

def settlingAt (elapsed : Nat) : State := { closedTable .idle with run.settle := some ⟨elapsed, 364⟩ }

theorem witness_SettlePeriodRunsItsLength :
    (∃ p, (settlingAt 364).run.settle = some p ∧ p.length ≤ p.elapsed) ∧
      ∃ p, (settlingAt 363).run.settle = some p ∧ p.elapsed < p.length :=
  ⟨⟨_, rfl, by decide⟩, ⟨_, rfl, by decide⟩⟩

/-- A second SOFT_RESET starts a settle period again from its full length, longer here than every term of
its own moment, and shorter than them in the second case. -/
theorem test_secondSoftReset :
    (softResetCommand { settlingAt 100 with run.settle := some ⟨100, 900⟩ }).run.settle = some ⟨0, 900⟩ ∧
      (softResetCommand { settlingAt 100 with run.settle := some ⟨30, 36⟩ }).run.settle =
        some ⟨0, 364⟩ := by decide +kernel

/-- RUNNING, a sweep in hand. -/
def sweeping (step : SweepStep) (w : Sweep) : State :=
  { openTable with
    expander := .sweeping step w
    intake := { queue := [desc 0 (.sweep sweepFields) .expanding], nextSeq := 1 } }

theorem witness_SoftResetEmptiesAndKeeps :
    (∀ step w, busy.expander ≠ .sweeping step w) ∧
      (sweeping .reads (sweep 1 3)).expander = .sweeping .reads (sweep 1 3) :=
  ⟨fun _ _ h => (by cases h), rfl⟩

/-! ## Hypotheses met: PUSH and the expander -/

def staged (w : Work) (s : State) : State := { s with host.staging := w.stagingWords }

/-- RUNNING with `n` markers held. -/
def queued (n : Nat) : State :=
  { closedTable .running with intake.queue := List.replicate n (desc 0 (.marker 0) .waiting) }

/-- Staging word 0 and the rest zero. -/
def stagedAs (word0 : Word) : State :=
  { State.reset with host := { State.reset.host with staging := (.replicate 8 0 : Vector Word 8).set 0 word0 } }

/-- Codes that name nothing are refused for the kinds that carry the field alone (R9): kinds 0 and 7; walk
2, close policy 3 and format 4 of a WRITE; format 4 of a SWEEP, whose walk and close policy are not decoded,
as no coded field of a PAUSE or a MARKER is. -/
theorem test_badCodes :
    stagedWork (stagedAs 0) = none ∧ stagedWork (stagedAs 7) = none ∧
      stagedWork (stagedAs 0x0021) = none ∧ stagedWork (stagedAs 0x00C1) = none ∧
      stagedWork (stagedAs 0x4001) = none ∧ (stagedWork (stagedAs 0x3091)).isSome = true ∧
      stagedWork (stagedAs 0x4006) = none ∧ (stagedWork (stagedAs 0x30F6)).isSome = true ∧
      (stagedWork (stagedAs 0x40F4)).isSome = true ∧ (stagedWork (stagedAs 0x40F5)).isSome = true := by
  decide +kernel

theorem witness_PushRefusesInOrder :
    (closedTable .aborting).run.state = .aborting ∧
      ((queued 32).run.state ≠ .aborting ∧ 32 ≤ (queued 32).intake.queue.length) ∧
      ((queued 31).intake.queue.length < 32 ∧ stagedWork (queued 31) = none) ∧
      (stagedWork (staged (.pause 0 ⟨true, false⟩) (queued 31)) = some (.pause 0 ⟨true, false⟩) ∧
        pauseFits (.pause 0 ⟨true, false⟩) = false ∧ pauseFits (.pause 1 ⟨true, false⟩) = true) ∧
      (addressFits State.reset.timing.geometry
          (.region { region .rowMajor with rowFirst := 2 ^ 15 - 2 }) = true ∧
        addressFits State.reset.timing.geometry
          (.region { region .rowMajor with rowFirst := 2 ^ 15 - 1 }) = false) ∧
      sweepFits (staged (.sweep { sweepFields with readsPerTap := 0 }) (queued 31))
        (.sweep { sweepFields with readsPerTap := 0 }) = false := by decide +kernel

theorem witness_PushAcceptedAppends :
    let w := Work.sweep sweepFields
    let s := staged w (queued 31)
    s.run.state ≠ .aborting ∧ s.intake.queue.length < 32 ∧ stagedWork s = some w ∧ pauseFits w = true ∧
      addressFits s.timing.geometry w = true ∧ sweepFits s w = true ∧
      (closedTable .halted).run.state ≠ .running ∧ sweepFields.tapFirst ≤ sweepFields.tapLast := by
  decide +kernel

/-- RUNNING, expander IDLE, with an EXPANDED region ahead of a WAITING descriptor. -/
def waiting (w : Work) : State :=
  { openTable with
    intake.queue := [desc 9 (.region (region .rowMajor)) .expanded, desc 0 w .waiting] }

theorem witness_ExamineTakesOldestWaiting :
    (openTable.expander = .idle ∧ openTable.run.state = .running ∧
      ∀ d ∈ openTable.intake.queue, d.life ≠ .waiting) ∧
      (∀ w, (waiting w).expander = .idle ∧ (waiting w).run.state = .running ∧
        (waiting w).intake.queue =
          [desc 9 (.region (region .rowMajor)) .expanded] ++ desc 0 w .waiting :: []) ∧
      (∀ a ∈ [desc 9 (.region (region .rowMajor)) .expanded], a.life ≠ .waiting ∧ a.seq ≠ 0) ∧
      ((Work.region (region .rowMajor)).fenced = true ∧
        (Work.region { region .rowMajor with fence := false }).fenced = false ∧
        (desc 9 (.region (region .rowMajor)) .expanded).work.isSweep = false) :=
  ⟨by decide +kernel, fun _ => ⟨rfl, rfl, rfl⟩, by decide +kernel, by decide⟩

/-! ## Hypotheses met: the run commands -/

def withStored (t : TimingSet) (g : Geometry) : State :=
  { State.reset with timing := { State.reset.timing with stored := t, geometry := g } }

theorem witness_StartValidatesThenRuns :
    openTable.run.state ≠ .idle ∧ State.reset.run.state = .idle ∧ startFault State.reset = none ∧
      startFault (withStored { TimingSet.powerOn with openToAccess := 3 } ⟨1, 15, 128⟩) = some 1 ∧
      startFault (withStored { TimingSet.powerOn with openToAccess := 4 } ⟨1, 15, 128⟩) = none ∧
      startFault (withStored { TimingSet.powerOn with openGapOtherSet := 7 } ⟨1, 15, 128⟩) = some 5 ∧
      startFault (withStored { TimingSet.powerOn with readTimeout := 23 } ⟨1, 15, 128⟩) = some 16 ∧
      startFault (withStored { TimingSet.powerOn with starveLimit := 64 } ⟨3, 11, 0⟩) = some 20 ∧
      startFault (withStored .powerOn ⟨3, 11, 0⟩) = some 21 ∧
      startFault (withStored .powerOn ⟨2, 18, 0⟩) = some 22 ∧
      startFault (withStored .powerOn ⟨2, 17, 129⟩) = some 23 := by decide +kernel

theorem witness_StopDrains :
    (closedTable .idle).run.state = .idle ∧ (closedTable .draining).run.state = .draining ∧
      openTable.run.state = .running ∧ openTable.expander = .idle ∧
      ({ openTable with expander := .fenceWait 3 } : State).expander = .fenceWait 3 ∧
      ({ openTable with expander := .expanding 3 5 1 } : State).expander = .expanding 3 5 1 ∧
      ({ openTable with expander := .pausing 3 1024 } : State).expander = .pausing 3 1024 ∧
      (sweeping .settle (sweep 0 3)).expander = .sweeping .settle (sweep 0 3) := by
  refine ⟨rfl, rfl, rfl, rfl, rfl, rfl, rfl, rfl⟩

def halted (drain : Bool) : State := { closedTable .halted with run.drainRequested := drain }

theorem witness_ResumeReturns :
    (closedTable .idle).run.state ≠ .halted ∧
      ((halted true).run.state = .halted ∧ (halted true).run.drainRequested = true) ∧
      ((halted false).run.state = .halted ∧ (halted false).run.drainRequested = false) ∧
      (({ halted false with expander := .pausing 3 5 } : State).expander ≠ .idle ∧
        ∀ q, ({ halted false with expander := .pausing 3 5 } : State).expander ≠ .fenceWait q) :=
  ⟨by decide, by decide, by decide, by decide, fun _ h => by cases h⟩

theorem witness_AbortEmptiesOrWindsDown :
    (closedTable .idle).run.state = .idle ∧ (closedTable .aborting).run.state = .aborting ∧
      (busy.run.state ≠ .idle ∧ busy.run.state ≠ .aborting ∧ ∀ step w, busy.expander ≠ .sweeping step w) ∧
      ((sweeping .reads (sweep 1 3)).reads.inFlight = [] ∧
        (sweeping .reads (sweep 1 3)).run.state ≠ .idle ∧
        (sweeping .reads (sweep 1 3)).run.state ≠ .aborting) ∧
      ({ sweeping .reads (sweep 1 3) with reads := busy.reads } : State).reads.inFlight ≠ [] :=
  ⟨rfl, rfl, ⟨by decide, by decide, fun _ _ h => by cases h⟩, by decide, by decide⟩

theorem witness_PopRemovesOldest :
    busy.run.completions = completion .none :: [] ∧ openTable.run.completions = [] := by
  refine ⟨rfl, rfl⟩

/-! ## Hypotheses met: the fail log -/

def offer (col : Nat) : Offer := ⟨⟨b0, 5, col⟩, 2, 2, 4⟩

/-- `n` fail records with columns 0 to n - 1, and an offer of the key with column `col`. -/
def logOf (n col : Nat) : State :=
  { closedTable .running with
    failLog := { State.reset.failLog with records := (List.range n).map record }
    messages := { haltRequests := [], offers := [offer col] } }

theorem witness_FailReleaseMovesOldest :
    ((logOf 32 32).failLog.records = record 0 :: (List.range' 1 31).map record ∧
      (logOf 32 32).messages.offers = offer 32 :: [] ∧
      (∀ x ∈ (List.range' 1 31).map record, x.key ≠ (offer 32).key) ∧
      ((List.range' 1 31).map record).length < 32) ∧ (logOf 0 0).failLog.records = [] := by decide +kernel

theorem witness_FailClearEmptiesLog : (logOf 2 0).messages.offers = offer 0 :: [] := rfl

theorem witness_OfferAppendsNewRecord :
    (logOf 31 31).messages.offers = offer 31 :: [] ∧
      (∀ r ∈ (logOf 31 31).failLog.records, r.key ≠ (offer 31).key) ∧
      (logOf 31 31).failLog.records.length < 32 := by decide +kernel

theorem witness_OfferMergesOrIsDropped :
    ((logOf 3 1).failLog.records = [record 0] ++ record 1 :: [record 2] ∧ (record 1).key = (offer 1).key ∧
      ∀ x ∈ [record 0] ++ [record 2], x.key ≠ (offer 1).key) ∧
      (logOf 32 32).messages.offers = offer 32 :: [] ∧
      (∀ r ∈ (logOf 32 32).failLog.records, r.key ≠ (offer 32).key) ∧
      32 ≤ (logOf 32 32).failLog.records.length := by decide +kernel

/-! ## Hypotheses met: refresh upkeep -/

theorem witness_RefreshCommandsSetNamedRanks :
    ¬ 256 ≤ (255 : BitVec 16).toNat ∧
      (256 ≤ (256 : BitVec 16).toNat ∧ ¬ (32 ≤ (1024 : BitVec 16).toNat ∧ (1024 : BitVec 16).toNat ≤ 1023)) ∧
      (256 ≤ State.reset.timing.stored.refreshInterval.toNat ∧
        32 ≤ State.reset.timing.stored.refreshTime.toNat ∧
        State.reset.timing.stored.refreshTime.toNat ≤ 1023) ∧
      (2 : BitVec 2).getLsbD Rank.r1.num = true ∧ ¬ (2 : BitVec 2).getLsbD Rank.r0.num = true := by
  decide +kernel

def due (debt : Nat) : State :=
  modifyRank .r0 (fun k => { k with interval := .running 0, debt := debt }) (closedTable .running)

theorem witness_IntervalExpiryRaisesDebt :
    (rankAt openTable .r0).interval ≠ .running 0 ∧
      ((rankAt (due 7) .r0).interval = .running 0 ∧ (rankAt (due 7) .r0).debt ≤ 7) ∧
      ((rankAt (due 8) .r0).interval = .running 0 ∧ (rankAt (due 8) .r0).debt = 8) := by decide

/-! ## Hypotheses met: the register window -/

/-- A 32-bit access at an offset. -/
def busTo (isWrite : Bool) (offset : Nat) (v : Word) : BusAccess := ⟨isWrite, .ofNat 9 (offset / 4), 0xF, v⟩

theorem witness_AnyStateWritesAreTaken :
    (busTo true 0x03C 9).word = some (.staging 7) ∧ (busTo true 0x03C 9).isWrite = true ∧
      (busTo true 0x03C 9).be = 0xF#4 := by decide +kernel

theorem witness_IdleOnlyWrites :
    openTable.run.state ≠ .idle ∧ (idleQueued .push).run.state = .idle ∧
      (idleQueued .push).intake.queue ≠ [] ∧ (closedTable .idle).intake.queue = [] ∧
      ((0x00100C01#32).extractLsb' 0 2 = 2#2 ↔ (closedTable .idle).timing.geometry.ranksPresent = 2#2) := by
  decide +kernel

theorem witness_RankCountChangeResetsRankOne :
    (closedTable .idle).run.state = .idle ∧ (closedTable .idle).intake.queue = [] ∧
      ¬ ((0x00800F02#32).extractLsb' 0 2 = 2#2 ↔
        (closedTable .idle).timing.geometry.ranksPresent = 2#2) := by decide +kernel

theorem witness_NarrowAccessesAreBad :
    (0x7#4 ≠ 0xF#4) ∧ (0x0#4 ≠ 0xF#4) ∧ (⟨true, 0x008, 0x7, 1⟩ : BusAccess).be = 0x7#4 := by decide

def shown (c : CompletionRecord) : State := { closedTable .running with run.completions := [c] }

def viewing : State := { closedTable .running with failLog.view := .released (record 127) }

theorem witness_PortReadsShowTheRecord :
    openTable.run.completions = [] ∧ openTable.failLog.view = .empty ∧
      (∃ c rest, (shown { completion .none with issued := 2 ^ 25 - 1 }).run.completions = c :: rest ∧
        c.issued < 2 ^ 25 ∧ c.detail = .none) ∧
      (completion (.marker 7)).detail = .marker 7 ∧
      (completion (.sweep ⟨true, 3, 5, 3, 4⟩)).detail = .sweep ⟨true, 3, 5, 3, 4⟩ ∧
      (viewing.failLog.view.record? = some (record 127) ∧ (record 127).key.col < 2 ^ 7 ∧
        (record 127).key.row < 2 ^ 17) := by
  refine ⟨rfl, rfl, ⟨_, _, rfl, by decide, rfl⟩, rfl, rfl, rfl, by decide, by decide⟩

theorem witness_OtherAccessesByAttribute :
    ((busTo false 0x2C0 0).isWrite = false ∧ (busTo false 0x2C0 0).word = some .flags) ∧
      (busTo false 0x7FC 0).word = none ∧ (busTo true 0x7FC 0).word = none ∧
      (busTo true 0x18C 0).word = some (.completion .q3) ∧
      (busTo true 0x27C 0).word = some (.sweepEntry 31) ∧
      ((busTo true 0x010 12).word = some .command ∧ 12 ≤ (busTo true 0x010 12).data.toNat % 16 ∧
        (busTo true 0x010 16).data.toNat % 16 = 0) := by decide +kernel

/-! ## Hypotheses met: the alert and the command opportunity -/

theorem witness_AlertSamples :
    State.reset.capture.alertWasActive = true ∧
      ({ State.reset with capture.alertWasActive := false } : State).capture.alertWasActive = false := by
  refine ⟨rfl, rfl⟩

/-- Every bank UNKNOWN, a debt of 1: rank closing. -/
def toClose : State := modifyRank .r0 (fun k => { k with debt := 1 }) (withStored .powerOn ⟨1, 15, 128⟩)

/-- Every bank CLOSED, a debt of 1: routine refresh. -/
def toRefresh : State := modifyRank .r0 (fun k => { k with debt := 1 }) (closedTable .idle)

def withWindow (l : List Access) (s : State) : State := { s with window := l }

theorem choose_openRow :
    choose (withWindow [access .read 5] (closedTable .running)) = some (6, .openRow b0 5) := by decide +kernel

theorem choose_close : choose (withWindow [access .read 6] openTable) = some (7, .close b0) := by
  decide +kernel

theorem choose_closeRank : choose toClose = some (1, .closeRank .r0) := by decide +kernel

theorem choose_refresh : choose toRefresh = some (8, .refresh .r0) := by decide +kernel

theorem choose_read :
    choose (withWindow [access .read 5, access .write 5] openTable) = some (5, .read (access .read 5)) := by
  decide +kernel

theorem choose_write :
    choose (withWindow [access .write 5] openTable) = some (5, .write (access .write 5)) := by decide +kernel

theorem witness_OpportunityIssuesOrPasses :
    choose openTable = none ∧ choose toRefresh = some (8, .refresh .r0) ∧
      (settlingAt 0).run.settle ≠ none := by decide +kernel

theorem witness_ChoiceIsFirstOnLadder :
    toRefresh.run.settle = none ∧ (∃ n c, choose toRefresh = some (n, c)) ∧ choose openTable = none :=
  ⟨rfl, ⟨_, _, choose_refresh⟩, by decide +kernel⟩

/-- Equal idle times are offered lowest bank first, a longer idle time before both (R93). -/
theorem test_idle_closes_in_order :
    let idle (b : BankAddr) (n : Nat) := modifyBank b fun k => { k with state := .opened 5, idle := n }
    rung (idle b0 9 (idle b1 9 (idle ⟨.r0, .q3, .q0⟩ 10
      { closedTable .running with timing.working := { TimingSet.powerOn with pageHold := 9 } }))) 9 =
        [.close ⟨.r0, .q3, .q0⟩, .close b0, .close b1] := by decide +kernel

theorem witness_IssuedCommandsAreAllowed :
    (∃ s n b row, choose s = some (n, .openRow b row)) ∧ (∃ s n b, choose s = some (n, .close b)) ∧
      (∃ s n r, choose s = some (n, .closeRank r)) ∧ (∃ s n a, choose s = some (n, .read a)) ∧
      (∃ s n a, choose s = some (n, .write a)) ∧ ∃ s n r, choose s = some (n, .refresh r) :=
  ⟨⟨_, _, _, _, choose_openRow⟩, ⟨_, _, _, choose_close⟩, ⟨_, _, _, choose_closeRank⟩,
    ⟨_, _, _, choose_read⟩, ⟨_, _, _, choose_write⟩, ⟨_, _, _, choose_refresh⟩⟩

/-- A history of OPENs on the rank of `b0`, every bank CLOSED. -/
def opensAged (history : List Nat) (debt : Nat) : State :=
  modifyRank .r0 (fun k => { k with history := history, debt := debt }) (closedTable .running)

/-- An OPEN at the two sides of each bound: FOUR_OPEN_WINDOW 24, OPEN_GAP_OTHER_SET 4, debt 8. -/
theorem test_openBounds :
    let ready (s : State) : Bool := eligible s (.openRow b0 5) && !withheld s (.openRow b0 5)
    ready (opensAged [24, 20, 10, 4] 7) = true ∧ ready (opensAged [23, 20, 10, 4] 7) = false ∧
      ready (opensAged [20, 10, 4] 7) = true ∧ ready (opensAged [20, 10, 3] 7) = false ∧
      ready (opensAged [24, 20, 10, 4] 8) = false := by decide +kernel

/-- The data lane hold at READ_LATENCY 16 and past it, and at WRITE_LATENCY 12 and past it. -/
theorem test_laneBounds :
    let lanes (n : Nat) : State := startHold .dataLane n openTable
    eligible (lanes 16) (.read (access .read 5)) = true ∧
      eligible (lanes 17) (.read (access .read 5)) = false ∧
      eligible (lanes 12) (.write (access .write 5)) = true ∧
      eligible (lanes 13) (.write (access .write 5)) = false := by decide +kernel

/-- The rank with its four remembered OPENs, all old enough: the oldest leaves the history. -/
theorem witness_BankCommandsIssue :
    let s := withWindow [access .read 5]
      (modifyRank .r0 (fun k => { k with history := [40, 30, 20, 10] }) (closedTable .running))
    choose s = some (6, .openRow b0 5) ∧ (rankAt s .r0).history = 40 :: [30, 20, 10] ∧
      (rankAt (withWindow [access .read 5] (closedTable .running)) .r0).history.length < 4 := by
  decide +kernel

theorem witness_AccessesIssue :
    (∃ s n a, choose s = some (n, .read a)) ∧ ∃ s n a, choose s = some (n, .write a) :=
  ⟨⟨_, _, _, choose_read⟩, ⟨_, _, _, choose_write⟩⟩

/-- An access to another bank of the rank is ahead; its OPEN is eligible but an urgent rank withholds it. -/
theorem witness_IssuedAccessesLeaveTheWindow :
    let ahead : Access := { access .write 9 with addr := ⟨b1, 9, 1⟩, bypass := 63 }
    let s := withWindow [ahead, access .read 5]
      (modifyRank .r0 (fun k => { k with debt := 8 })
        (modifyBank b0 (fun k => { k with restore := .running 4 }) openTable))
    choose s = some (5, .read (access .read 5)) ∧ nextCommand s ahead = some (.openRow b1 9) ∧
      eligible s (.openRow b1 9) = true := by decide +kernel

theorem witness_TclkMovesEveryCount :
    ({ openTable with expander := .pausing 3 1 } : State).expander = .pausing 3 1 ∧
      ∀ q n, openTable.expander ≠ .pausing q n :=
  ⟨rfl, fun _ _ h => by cases h⟩

/-! ## Hypotheses met: expiries -/

/-- Every timer of bank `b0` and the refresh time of rank 0 have run out. -/
def expiring (st : BankState) : State :=
  modifyRank .r0 (fun k => { k with refreshTime := .running 0, state := .refreshing })
    (modifyBank b0
      (fun k => { k with
        state := st, accessReady := .running 0, restore := .running 0, writeRecovery := .running 0
        readCloseWait := .running 0, closeTime := .running 0 }) openTable)

theorem witness_TimerExpiries :
    ((bankAt (expiring (.opening 5)) b0).accessReady = .running 0 ∧
      (bankAt (expiring (.opening 5)) b0).state = .opening 5 ∧
      (bankAt (expiring (.opening 5)) b0).restore = .running 0 ∧
      (bankAt (expiring (.opening 5)) b0).writeRecovery = .running 0 ∧
      (bankAt (expiring (.opening 5)) b0).readCloseWait = .running 0 ∧
      (rankAt (expiring (.opening 5)) .r0).refreshTime = .running 0) ∧
      ((bankAt (expiring .closing) b0).closeTime = .running 0 ∧
        (bankAt (expiring .closing) b0).state = .closing) ∧
      ((bankAt openTable b0).accessReady ≠ .running 0 ∧ (bankAt openTable b0).restore ≠ .running 0 ∧
        (bankAt openTable b0).writeRecovery ≠ .running 0 ∧
        (bankAt openTable b0).readCloseWait ≠ .running 0 ∧ (bankAt openTable b0).closeTime ≠ .running 0 ∧
        (rankAt openTable .r0).refreshTime ≠ .running 0) := by decide +kernel

/-- RUNNING, the descriptor of FENCE_WAIT at the head. -/
def fenced (w : Work) : State :=
  { openTable with expander := .fenceWait 0, intake.queue := [desc 0 w .waiting] }

theorem witness_PauseExpiryAndFenceTake :
    (({ openTable with expander := .pausing 3 0 } : State).expander = .pausing 3 0 ∧
      ({ openTable with expander := .pausing 3 0 } : State).run.state = .running) ∧
      ({ openTable with expander := .pausing 3 1 } : State).expander = .pausing 3 (0 + 1) ∧
      (∀ w, (fenced w).expander = .fenceWait (desc 0 w .waiting).seq ∧ (fenced w).run.state = .running ∧
        (fenced w).intake.queue = desc 0 w .waiting :: [] ∧ (desc 0 w .waiting).work = w) ∧
      ({ fenced (.marker 0) with expander := .fenceWait 1 } : State).expander = .fenceWait 1 ∧
      ∀ d rest, (fenced (.marker 0)).intake.queue = d :: rest → d.seq ≠ 1 := by
  refine ⟨⟨rfl, rfl⟩, rfl, fun _ => ⟨rfl, rfl, rfl, rfl⟩, rfl, ?_⟩
  intro d rest h
  have hd : desc 0 (.marker 0) .waiting = d := by
    injection h
  subst hd
  decide

/-- A read in flight with its deadline, a write phase with its remaining count. -/
def returning (deadline remaining : Nat) : State :=
  { busy with
    reads := { busy.reads with
      inFlight := [inFlight false deadline], writePhases := [⟨0, ⟨b1, 7, 1⟩, spec0, remaining⟩] } }

theorem witness_PhaseEndsAndDeadlines :
    ((returning 0 0).reads.writePhases = ⟨0, ⟨b1, 7, 1⟩, spec0, 0⟩ :: [] ∧
      (returning 1 1).reads.writePhases = ⟨0, ⟨b1, 7, 1⟩, spec0, 1⟩ :: []) ∧
      ((returning 0 0).reads.inFlight = inFlight false 0 :: [] ∧ (inFlight false 0).deadline = 0 ∧
        ∀ step w, (returning 0 0).expander ≠ .sweeping step w) ∧
      (returning 1 1).reads.inFlight = inFlight false 1 :: [] ∧ (inFlight false 1).deadline ≠ 0 :=
  ⟨⟨rfl, rfl⟩, ⟨rfl, rfl, fun _ _ h => by cases h⟩, rfl, by decide⟩

/-- Two sweep reads in flight, the oldest past its deadline. -/
def sweepLost (w : Sweep) : State :=
  { sweeping .collect w with
    reads := { State.reset.reads with inFlight := [inFlight true 0, inFlight true 4] } }

theorem witness_PhaseEndsAndDeadlines_sweep :
    (∀ w, (sweepLost w).reads.inFlight = inFlight true 0 :: [inFlight true 4] ∧
      (sweepLost w).expander = .sweeping .collect w) ∧
      (∀ x ∈ [inFlight true 0, inFlight true 4], x.sweepRead = true ∧ x.seq = (sweep 2 3).seq) ∧
      ((sweep 2 3).abortMark = false ∧ (sweep 2 3).endDue = false ∧
        (sweep 2 3).readsOutstanding = [inFlight true 4].length + 1 ∧
        (sweep 2 3).tapUnderTest ≠ (sweep 2 3).fields.tapLast ∧ (sweep 2 3).stopMark = false) ∧
      (sweep 2 5).tapUnderTest = (sweep 2 5).fields.tapLast ∧
      [inFlight true 4].length + 1 < (sweep 3 3).readsOutstanding ∧
      ({ sweep 2 3 with abortMark := true } : Sweep).abortMark = true :=
  ⟨fun _ => ⟨rfl, rfl⟩, by decide, by decide, by decide, by decide, rfl⟩

/-- Both lost reads are mismatches of tap 3, the tap finishes, and tap 4 comes next (R132, R177). -/
theorem test_deadline_finishes_tap :
    let t := deadlineExpiry (sweepLost (sweep 2 3))
    sweepEntryAt t 3 = ⟨true, 2⟩ ∧ t.reads.inFlight = [] ∧
      t.expander = .sweeping .settle { sweep 0 4 with readsPlaced := 0 } := by decide +kernel

/-- In ABORTING the last access of an EXPANDED descriptor leaves it EXPANDED (R17). -/
theorem test_aborting_keeps_lifecycle :
    let d := { desc 0 (.region (region .rowMajor)) .expanded with total := 1 }
    (d.completeAccess .aborting).life = .expanded ∧ (d.completeAccess .halted).life = .complete := by
  decide


/-! ## Hypotheses met: data arrivals and strobes -/

def zeros : Burst := .replicate 8 0

/-- A complete burst waits. -/
def arrived (s : State) : State := { s with capture := { s.capture with arrivals := [zeros] } }

/-- No complete burst waits, and one opened `age` tclk ends ago. -/
def aged (age : Nat) (discard : Bool) (s : State) : State :=
  { s with capture := { s.capture with burst := some ⟨0, age, .all [], discard⟩ } }

theorem witness_ArrivalsAreCompared :
    ((arrived openTable).capture.arrivals = zeros :: [] ∧
      (arrived openTable).run.settle = none ∧ (arrived openTable).reads.inFlight = []) ∧
      (arrived (settlingAt 0)).run.settle ≠ none ∧
      ((arrived busy).reads.inFlight = inFlight false 9 :: [] ∧ (inFlight false 9).sweepRead = false ∧
        ∀ step w, (arrived busy).expander ≠ .sweeping step w) ∧
      (compareBursts 0 zeros (patternBurst spec0 ⟨b0, 5, 1⟩)).miscompares = false ∧
      (compareBursts 0 (zeros.set 7 1) (patternBurst spec0 ⟨b0, 5, 1⟩)).miscompares = true :=
  ⟨⟨rfl, rfl, rfl⟩, by decide, ⟨rfl, rfl, fun _ _ h => by cases h⟩, by decide +kernel, by decide +kernel⟩

theorem witness_ArrivalsAreCompared_aged :
    ∀ age discard, (aged age discard openTable).capture.arrivals = [] ∧
      (aged age discard openTable).capture.burst = some ⟨0, age, .all [], discard⟩ ∧
      (aged age discard openTable).run.settle = none ∧
      (aged age discard (settlingAt 0)).run.settle ≠ none := by
  intro _ _
  exact ⟨rfl, rfl, rfl, by simp [aged, settlingAt]⟩

/-- A sweep read in flight and its burst waiting. -/
def sweepArrived (step : SweepStep) (w : Sweep) : State :=
  { sweeping step w with
    reads := { State.reset.reads with inFlight := [inFlight true 9] }
    capture := { State.reset.capture with arrivals := [zeros] } }

theorem witness_SweepArrivalIsCounted :
    (∀ step w, (sweepArrived step w).capture.arrivals = zeros :: [] ∧
      (sweepArrived step w).run.settle = none ∧
      (sweepArrived step w).reads.inFlight = inFlight true 9 :: [] ∧
      (sweepArrived step w).expander = .sweeping step w) ∧
      ((inFlight true 9).sweepRead = true ∧ (sweep 1 3).seq = (inFlight true 9).seq ∧
        (sweep 1 3).abortMark = false ∧ (sweep 1 3).endDue = false) ∧
      ({ sweep 1 3 with abortMark := true } : Sweep).abortMark = true ∧
      2 ≤ (sweep 2 3).readsOutstanding ∧ (sweep 1 5).readsOutstanding = 1 ∧
      (sweep 1 5).tapUnderTest = (sweep 1 5).fields.tapLast ∧
      (sweep 1 4).tapUnderTest ≠ (sweep 1 4).fields.tapLast ∧ (sweep 1 4).stopMark = false :=
  ⟨fun _ _ => ⟨rfl, rfl, rfl, rfl⟩, by decide, rfl, by decide, by decide, by decide, by decide, by decide⟩

/-- An open burst, `n` beats on byte lane 0 and `m` on byte lane 1. -/
def partBurst (n m : Nat) : OpenBurst :=
  { position := 10, age := 2, beats := ⟨.replicate n 0, .replicate m 0, [], []⟩, discard := false }

def capturing (n m : Nat) : State :=
  { openTable with capture := { openTable.capture with burst := some (partBurst n m) } }

/-- The edge exactly 6 tclk after the first finds the burst complete, the one a 64th before does not. -/
theorem witness_StrobeEdgesCapture_late :
    (aged 6 true openTable).capture.burst = some ⟨0, 6, .all [], true⟩ ∧ 0 + 384 ≤ 64 * 6 + 0 ∧
      64 * 5 + 63 < 0 + 384 :=
  ⟨rfl, by decide, by decide⟩

/-- The second tclk of a phase: beats 2 and 3, one edge at the centre of each. -/
theorem test_driven_in_second_tclk :
    drivenBeats (returning 9 3) = some (0#32, 0#32) ∧ drivenEdges (returning 9 3) .q2 = [16, 48] ∧
      drivenBeats (returning 9 5) = none ∧ drivenEdges (returning 9 5) .q2 = [] := by decide +kernel

/-- Edges 2 tclk after the first (joins), one 64th later (too late), and 6 tclk later less one 64th. -/
theorem witness_StrobeEdgesCapture :
    (∃ p ∈ (returning 9 4).reads.writePhases, 1 ≤ p.remaining ∧ p.remaining ≤ 4) ∧
      (∀ p ∈ (returning 9 5).reads.writePhases, ¬ (1 ≤ p.remaining ∧ p.remaining ≤ 4)) ∧
      openTable.capture.burst = none ∧
      (∀ n m, (capturing n m).capture.burst = some (partBurst n m) ∧ (capturing n m).run.settle = none ∧
        (partBurst n m).discard = false ∧
        64 * (partBurst n m).age + 63 < (partBurst n m).position + 384) ∧
      ((partBurst 1 0).beats.get .q1 = [] ∧
        ¬ (partBurst 1 0).position + 128 < 64 * (partBurst 1 0).age + 10 ∧
        (partBurst 1 0).position + 128 < 64 * (partBurst 1 0).age + 11 ∧
        (∃ j, ((partBurst 1 0).beats.get j).length ∉ [0, 8]) ∧
        ∀ j, ((partBurst 1 0).beats.get j).length ≤ 8) ∧
      ((partBurst 7 8).beats.get .q0).length = 7 ∧
      ∀ j, j ≠ .q0 → ((partBurst 7 8).beats.get j).length ∈ [0, 8] := by
  refine ⟨by decide +kernel, by decide +kernel, rfl,
    fun _ _ => ⟨rfl, rfl, rfl, show 64 * 2 + 63 < 10 + 384 by decide⟩,
    ⟨rfl, by decide, by decide, ⟨.q0, by decide⟩, fun j => by cases j <;> decide⟩, by decide, ?_⟩
  intro j h
  cases j
  · exact absurd rfl h
  · decide
  · decide
  · decide

/-! ## Hypotheses met: placement, sweeps and run control -/

/-- RUNNING, a region being expanded. -/
def expanding (walk : Walk) (row col held : Nat) : State :=
  { openTable with
    expander := .expanding 0 row col
    window := .replicate held (access .read 5)
    intake := { queue := [desc 0 (.region (region walk)) .expanding], nextSeq := 1 } }

theorem witness_PlacementWalksTheRegion :
    (∀ walk row col held, (expanding walk row col held).expander = .expanding 0 row col ∧
      (expanding walk row col held).intake.queue =
        [] ++ desc 0 (.region (region walk)) .expanding :: [] ∧
      (expanding walk row col held).run.state = .running) ∧
      ((region .rowMajor).rowFirst ≤ 6 ∧ 6 < (region .rowMajor).rowFirst + (region .rowMajor).rowCount ∧
        (region .rowMajor).colFirst ≤ 2 ∧
        2 < (region .rowMajor).colFirst + (region .rowMajor).colCount) ∧
      (6 + 1 = (region .rowMajor).rowFirst + (region .rowMajor).rowCount ∧
        2 + 1 = (region .rowMajor).colFirst + (region .rowMajor).colCount) ∧
      (expanding .rowMajor 6 2 15).window.length + 1 ≤ 16 ∧
      ¬ (expanding .rowMajor 6 2 16).window.length + 1 ≤ 16 ∧
      ∃ mark : Bool → Bool, ∀ last, mark last = true ↔
        (region .rowMajor).close = .closeEach ∨
          ((region .rowMajor).close = .closeRowEnd ∧ last = true ∧ True) := by
  refine ⟨fun _ _ _ _ => ⟨rfl, rfl, rfl⟩, by decide, by decide, by decide +kernel, by decide +kernel,
    fun _ => false, fun _ => ?_⟩
  simp [region]

theorem witness_SweepStepsAdvance :
    ((sweeping .settle (sweep 0 3)).expander = .sweeping .settle (sweep 0 3) ∧
      (sweeping .settle (sweep 0 3)).run.state = .running ∧
      (sweeping .settle (sweep 0 3)).reads.inFlight = [] ∧ (sweep 0 3).stopMark = false) ∧
      (sweeping .reads (sweep 0 3)).expander = .sweeping .reads (sweep 0 3) ∧
      (withWindow (.replicate 15 (access .read 5)) (sweeping .reads (sweep 0 3))).window.length < 16 ∧
      16 ≤ (withWindow (.replicate 16 (access .read 5)) (sweeping .reads (sweep 0 3))).window.length := by
  refine ⟨⟨rfl, rfl, rfl, rfl⟩, rfl, by decide, by decide⟩

/-- The last tap has finished; taps 4 and 5 are good, tap 3 is not. -/
def swept : State :=
  { sweeping .collect { sweep 0 5 with endDue := true } with
    sweep := { State.reset.sweep with
      table := ((State.reset.sweep.table.set 3 ⟨true, 1⟩).set 4 ⟨true, 0⟩).set 5 ⟨true, 0⟩ } }

theorem witness_SweepEndsWithWindow :
    (swept.expander = .sweeping .collect { sweep 0 5 with endDue := true } ∧ swept.run.state = .running ∧
      swept.reads.inFlight = []) ∧
      (sweepEntryAt swept 3 ≠ ⟨true, 0⟩ ∧ sweepEntryAt swept 4 = ⟨true, 0⟩ ∧
        sweepEntryAt swept 5 = ⟨true, 0⟩) ∧
      (∀ t : BitVec 5, sweepEntryAt (sweeping .settle (sweep 0 3)) t ≠ ⟨true, 0⟩) ∧
      ({ sweep 0 3 with stopMark := true } : Sweep).stopMark = true := by
  refine ⟨⟨rfl, rfl, rfl⟩, by decide +kernel, by decide +kernel, rfl⟩

def requested (st : RunState) : State :=
  { closedTable st with messages := { haltRequests := [.strayData, .readTimeout], offers := [] } }

theorem witness_RunStateEvents :
    (HaltCause.readTimeout ∈ (requested .running).messages.haltRequests ∧
      (requested .running).run.state = .running) ∧
      (requested .draining).run.state = .draining ∧ (requested .halted).run.state ≠ .running ∧
      HaltCause.failLimit ∉ (requested .running).messages.haltRequests ∧
      ((closedTable .draining).run.state = .draining ∧ (closedTable .draining).expander = .idle ∧
        (∀ d ∈ (closedTable .draining).intake.queue, d.life = .waiting) ∧
        (closedTable .draining).window = [] ∧ (closedTable .draining).reads.inFlight = [] ∧
        (closedTable .draining).reads.writePhases = [] ∧ (closedTable .draining).arbiter.pendingClose = []) ∧
      ((closedTable .aborting).run.state = .aborting ∧
        ∀ b : BankAddr, isPresent (closedTable .aborting) b.rank = true →
          (bankAt (closedTable .aborting) b).state = .closed) := by
  refine ⟨by decide, rfl, by decide, by decide, by decide +kernel, rfl, ?_⟩
  rintro ⟨r, g, k⟩ _
  cases r <;> cases g <;> cases k <;> rfl

/-- A COMPLETE head, `n` completion records posted. -/
def retiring (w : Work) (n : Nat) : State :=
  { closedTable .halted with
    intake.queue := [desc 0 w .complete], run.completions := .replicate n (completion .none) }

theorem witness_RetirementPostsRecord :
    ((retiring (.marker 3) 15).intake.queue = desc 0 (.marker 3) .complete :: [] ∧
      (desc 0 (.marker 3) .complete).life = .complete ∧ (retiring (.marker 3) 15).run.completions.length < 16 ∧
      (retiring (.marker 3) 15).run.state = .halted) ∧
      16 ≤ (retiring (.marker 3) 16).run.completions.length ∧
      ∃ d rest, (queued 1).intake.queue = d :: rest ∧ d.life ≠ .complete := by
  refine ⟨by decide +kernel, by decide +kernel, ⟨_, _, rfl, by decide⟩⟩

end Sys2Proof.Tests
end

/-!
Pattern generation (chapter 7): what each lane of a burst carries in each beat. A burst is read back lane by
lane (`patternBurst_lane`), the value of a lane is its base value inverted or not (`laneValue_eq_ite`), and the
base value has one equation a format (`baseValue_uniform` to `baseValue_address`).
-/
section

namespace Sys2Proof.Machine

/-! ## Reading a burst and the slot copy -/

/-- Building a burst from lane values and reading a lane of it back gives the lane's value. -/
@[simp] theorem patternBurst_lane (p : PatternSpec) (a : Addr) (L : Fin 32) (b : Fin 8) :
    (patternBurst p a)[b].getLsbD L.val = laneValue p a L.val b.val := by
  simp [patternBurst]

/-- Counting on from 7 to 0 leaves a slot number as it is. -/
@[simp] theorem slotAt_val (slots : Vector Byte 8) (s : Fin 8) : slotAt slots s.val = slots[s] := by
  simp only [slotAt, Nat.mod_eq_of_lt s.isLt, Fin.getElem_fin]

/-- The bits of the address byte are those of the whole sum's remainder mod 256 (R117). -/
theorem addressByte_getLsbD (a : Addr) (j : Nat) :
    (addressByte a).getLsbD j = ((a.row + a.col) % 256).testBit j := by
  rw [addressByte, ← BitVec.testBit_toNat, BitVec.toNat_ofNat]

/-! ## The base value, by format -/

section Formats

variable {p : PatternSpec} (a : Addr) (L b : Nat)

/-- R114: the bit of the beat, on every lane. -/
theorem baseValue_uniform (h : p.fields.format = .uniform) :
    baseValue p a L b = p.slots[p.fields.slot].getLsbD b := by
  simp only [baseValue, h, slotAt_val]

/-- R115: the bit of the lane's position in its byte lane, in every beat. -/
theorem baseValue_held (h : p.fields.format = .held) :
    baseValue p a L b = p.slots[p.fields.slot].getLsbD (L % 8) := by
  simp only [baseValue, h, slotAt_val]

/-- R116: the bit of the beat, of the slot `L` places after the base slot. -/
theorem baseValue_rotated (h : p.fields.format = .rotated) :
    baseValue p a L b =
      (p.slots[(p.fields.slot.val + L) % 8]'(Nat.mod_lt _ (by decide))).getLsbD b := by
  simp only [baseValue, h, slotAt]

/-- R117: the UNIFORM value combined with the address byte's bit at the lane's position. -/
theorem baseValue_address (h : p.fields.format = .address) :
    baseValue p a L b =
      (p.slots[p.fields.slot].getLsbD b != ((a.row + a.col) % 256).testBit (L % 8)) := by
  simp only [baseValue, h, slotAt_val, addressByte_getLsbD, Bool.bne_eq_xor]

end Formats

/-- R118: inversion acts on the base value, whatever the format. -/
theorem laneValue_eq_ite (p : PatternSpec) (a : Addr) (L b : Nat) :
    laneValue p a L b = if p.fields.invert then !baseValue p a L b else baseValue p a L b := by
  unfold laneValue
  cases p.fields.invert with
  | false => simp
  | true => simp

/-- Settles O51: the burst is read back at the lane, the base value follows from the equation of its format,
and inversion is applied after it. -/
theorem laneValuesByFormat : Obligations.LaneValuesByFormat := by
  intro p a L b
  dsimp only
  rw [patternBurst_lane, laneValue_eq_ite]
  cases h : p.fields.format with
  | uniform => rw [baseValue_uniform a _ _ h]
  | held => rw [baseValue_held a _ _ h]
  | rotated => rw [baseValue_rotated a _ _ h]
  | address => rw [baseValue_address a _ _ h]

end Sys2Proof.Machine
end

/-!
The fail log (chapter 9): what an offer for a new key, a release and a clear make of the log. Each command has
its effect written out once (`failOffer_append`, `failReleaseCommand_cons`, `failReleaseCommand_nil`,
`failClearCommand_eq`); what an offer finds after a release or a clear is the append rule at the state that the
command leaves.
-/
section

namespace Sys2Proof.Machine

/-! ## The meanings of the three commands -/

theorem exec_failOffer (s : State) : exec .failOffer s = .next (failOffer s) := rfl

theorem exec_failReleaseOldest (s : State) :
    exec .failReleaseOldest s = .next (failReleaseCommand s) := rfl

theorem exec_failClear (s : State) : exec .failClear s = .next (failClearCommand s) := rfl

/-! ## Offers (R142, R144) -/

/-- A key is new to the log when no record has it. -/
theorem holdsKey_eq_false_iff (s : State) (k : Addr) :
    holdsKey s k = false ↔ ∀ r ∈ s.failLog.records, r.key ≠ k := by
  simp [holdsKey]

/-- Of the outcomes of an offer, a new key and room for it choose the append (R142). -/
theorem takeOffer_eq_appendOffer {s : State} (o : Offer)
    (hkey : ∀ r ∈ s.failLog.records, r.key ≠ o.key) (hroom : s.failLog.records.length < 32) :
    takeOffer o s = appendOffer o s := by
  have hnew : ¬ holdsKey s o.key = true := by simpa [holdsKey_eq_false_iff] using hkey
  have hcap : s.failLog.records.length < Config.failLogCapacity := hroom
  rw [takeOffer, if_neg hnew, if_pos hcap]

/-- FAIL_OFFER takes the oldest offer on its way (R144). -/
theorem failOffer_cons {s : State} {o : Offer} {rest : List Offer}
    (ho : s.messages.offers = o :: rest) :
    failOffer s = takeOffer o { s with messages.offers := rest } := by
  rw [failOffer, ho]

theorem failOffer_append {s : State} {o : Offer} {rest : List Offer}
    (ho : s.messages.offers = o :: rest)
    (hkey : ∀ r ∈ s.failLog.records, r.key ≠ o.key) (hroom : s.failLog.records.length < 32) :
    failOffer s = { s with
      messages.offers := rest
      failLog.records := s.failLog.records ++ [o.newRecord] } := by
  rw [failOffer_cons ho]
  exact takeOffer_eq_appendOffer (s := { s with messages.offers := rest }) o hkey hroom

/-- Settles O30: the append rule, with the new record's fields written out. -/
theorem offerAppendsNewRecord : Obligations.OfferAppendsNewRecord := by
  intro s o rest ho hkey hroom
  rw [exec_failOffer, failOffer_append ho hkey hroom, Offer.newRecord]

/-! ## Releases (R145) -/

theorem failReleaseCommand_cons {s : State} {r : FailRecord} {rest : List FailRecord}
    (h : s.failLog.records = r :: rest) :
    failReleaseCommand s = { s with
      host.commandCode := 8, host.commandMask := 0
      host.resultCode := .accepted, host.resultDetail := .ofNat 8 rest.length
      failLog.records := rest, failLog.view := .released r } := by
  simp only [failReleaseCommand, takeCommand_failLog, h]
  rfl

theorem failReleaseCommand_nil {s : State} (h : s.failLog.records = []) :
    failReleaseCommand s = { s with
      host.commandCode := 8, host.commandMask := 0
      host.resultCode := .empty, host.resultDetail := 0 } := by
  simp only [failReleaseCommand, takeCommand_failLog, h]
  rfl

/-- Settles O28: a log with a record and an empty one each have their equation, and the offer after a release
is an append to the records behind the released one. -/
theorem failReleaseMovesOldest : Obligations.FailReleaseMovesOldest := by
  intro s
  refine ⟨failReleaseCommand s, exec_failReleaseOldest s, ?_⟩
  cases h : s.failLog.records with
  | nil =>
    rw [failReleaseCommand_nil h]
    exact ⟨fun _ _ hheld => (List.cons_ne_nil _ _ hheld.symm).elim, fun _ => ⟨rfl, rfl, rfl⟩, rfl⟩
  | cons r rest =>
    rw [failReleaseCommand_cons h]
    refine ⟨fun r' rest' hheld => ?_, fun hempty => (List.cons_ne_nil _ _ hempty).elim, rfl⟩
    obtain ⟨rfl, rfl⟩ := List.cons.inj hheld
    refine ⟨rfl, rfl, rfl, fun o later ho hkey hroom => ?_⟩
    exact ⟨_, offerAppendsNewRecord _ o later ho hkey hroom, rfl⟩

/-! ## Clears (R147) -/

theorem failClearCommand_eq (s : State) :
    failClearCommand s = { s with
      host.commandCode := 9, host.commandMask := 0
      host.resultCode := .accepted, host.resultDetail := 0
      failLog.records := [], failLog.overflow := 0 } := rfl

/-- Settles O29: an offer after the clear is an append to no records, and a clear after the offer empties the
log whichever outcome the offer had. -/
theorem failClearEmptiesLog : Obligations.FailClearEmptiesLog := by
  intro s
  refine ⟨failClearCommand s, exec_failClear s, ?_⟩
  rw [failClearCommand_eq]
  refine ⟨rfl, rfl, rfl, fun o rest ho => ⟨?clearFirst, ?offerFirst⟩⟩
  case clearFirst =>
    exact offerAppendsNewRecord _ o rest ho (fun _ hr => (List.not_mem_nil hr).elim) (Nat.zero_lt_succ 31)
  case offerFirst =>
    refine ⟨failOffer s, failClearCommand (failOffer s), exec_failOffer s, exec_failClear _, ?_⟩
    rw [failClearCommand_eq]
    exact ⟨rfl, rfl⟩

end Sys2Proof.Machine
end

/-!
The identification and status words (12.3, R186, R187). A word is an OR of fields that share no bit, so a
field read at its place gives its own value back (`Sys2Proof/Laws/Words.lean`); what is left for each word is
that every value fits its field. A bank word is a number whose base-16 digits are the codes of eight banks,
and a bank's number is its place among the 32 banks.
-/
section

namespace Sys2Proof.Machine

/-! ## Every code and count fits its field -/

theorem RunState.code_lt (r : RunState) : r.code < 8 := by cases r <;> simp [code]

theorem haltCode_lt (c : Option HaltCause) : haltCode c < 8 := by
  rcases c with _ | c
  · simp [haltCode]
  · cases c <;> simp [haltCode]

theorem Expander.code_lt (e : Expander) : e.code < 8 := by
  cases e with
  | sweeping step w => cases step <;> simp [code]
  | _ => simp [code]

theorem BankState.code_lt (b : BankState) : b.code < 16 := by cases b <;> simp [code]

theorem RankState.code_le (r : RankState) : r.code ≤ 1 := by cases r <;> simp [code]

theorem IntervalTimer.code_lt (t : IntervalTimer) : t.code < 4 := by cases t <;> simp [code]

theorem quad_num_lt (k : Quad) : k.num < 4 := by cases k <;> simp [Quad.num]

theorem quad_ofNum_num (k : Quad) : Quad.ofNum k.num = k := by cases k <;> rfl

/-- Starved accesses are counted among those of the issue window (R99). -/
theorem starvedCount_le (s : State) : starvedCount s ≤ s.window.length := List.countP_le_length

/-! ## Reading a field back -/

/-- A field read as a number gives its value back when the value fits. -/
theorem toNat_ofNat_of_lt {len v : Nat} (h : v < 2 ^ len) : (BitVec.ofNat len v).toNat = v := by
  rw [BitVec.toNat_ofNat, Nat.mod_eq_of_lt h]

/-- A counter that fills the low bits of a word. -/
theorem extract_setWidth {len : Nat} (v : BitVec len) (h : len ≤ 32) :
    (v.setWidth 32).extractLsb' 0 len = v := by
  rw [BitVec.extractLsb'_setWidth_of_le (by omega), BitVec.extractLsb'_eq_self]

theorem extract_other_flagField (lo : Nat) (b : Bool) (lo' len' : Nat) (h : lo < 32)
    (hd : lo' + len' ≤ lo ∨ lo < lo') : (flagField lo b).extractLsb' lo' len' = 0 :=
  extract_other_field lo 1 _ lo' len' h hd

theorem getLsbD_other_flagField (lo : Nat) (b : Bool) (i : Nat) (h : lo < 32) (hd : i < lo ∨ lo < i) :
    (flagField lo b).getLsbD i = false :=
  getLsbD_other_field lo 1 _ i h hd

/-! ## The words built of fields, in the order of R187 -/

theorem runWord_fields (s : State) :
    ((runWord s).extractLsb' 0 3).toNat = s.run.state.code ∧
      ((runWord s).extractLsb' 4 3).toNat = haltCode s.run.haltCause ∧
      (runWord s).getLsbD 7 = s.run.drainRequested ∧
      (runWord s).getLsbD 8 = s.run.settle.isSome ∧
      ((runWord s).extractLsb' 12 3).toNat = s.expander.code ∧
      (runWord s).extractLsb' 16 8 = s.expander.seqInHand := by
  simp [runWord, settling, BitVec.extractLsb'_or, extract_field, extract_other_field,
    extract_other_flagField, getLsbD_flagField, getLsbD_other_field, getLsbD_other_flagField,
    Nat.mod_eq_of_lt, s.run.state.code_lt, haltCode_lt, s.expander.code_lt,
    -BitVec.getLsbD_eq_getElem]

theorem queueWord_fields (s : State) (h : s.intake.queue.length ≤ 32) :
    ((queueWord s).extractLsb' 0 6).toNat = s.intake.queue.length ∧
      (queueWord s).extractLsb' 8 8 = (headSeq? s).getD 0 ∧
      (queueWord s).extractLsb' 16 8 = s.intake.nextSeq := by
  simp (disch := omega) [queueWord, BitVec.extractLsb'_or, extract_field, extract_other_field,
    Nat.mod_eq_of_lt]

theorem countsWord_fields (s : State) (hwin : s.window.length ≤ 16)
    (hreads : s.reads.inFlight.length ≤ 8) (hwrites : s.reads.writePhases.length ≤ 17)
    (hcomp : s.run.completions.length ≤ 16) :
    ((countsWord s).extractLsb' 0 5).toNat = s.window.length ∧
      ((countsWord s).extractLsb' 8 4).toNat = s.reads.inFlight.length ∧
      ((countsWord s).extractLsb' 12 5).toNat = s.reads.writePhases.length ∧
      ((countsWord s).extractLsb' 20 5).toNat = s.run.completions.length ∧
      ((countsWord s).extractLsb' 26 5).toNat = starvedCount s := by
  have hstarved := starvedCount_le s
  simp (disch := omega) [countsWord, BitVec.extractLsb'_or, extract_field, extract_other_field,
    Nat.mod_eq_of_lt]

theorem eventsWord_fields (s : State) (h : s.arbiter.lastRung ≤ 9) :
    ((eventsWord s).extractLsb' 0 4).toNat = s.arbiter.lastRung ∧
      (eventsWord s).extractLsb' 8 8 = s.reads.timeouts ∧
      (eventsWord s).extractLsb' 16 8 = s.reads.strays ∧
      (eventsWord s).extractLsb' 24 8 = s.run.alerts := by
  simp (disch := omega) [eventsWord, BitVec.extractLsb'_or, extract_field, extract_other_field,
    Nat.mod_eq_of_lt]

theorem rankWord_fields (s : State) :
    ((rankWord s).extractLsb' 0 1).toNat = (rankAt s .r0).state.code ∧
      (rankWord s).getLsbD 1 = (rankAt s .r0).recoveryNeeded ∧
      ((rankWord s).extractLsb' 8 1).toNat = (rankAt s .r1).state.code ∧
      (rankWord s).getLsbD 9 = (rankAt s .r1).recoveryNeeded := by
  simp [rankWord, rankAt, PerRank.get, BitVec.extractLsb'_or, extract_field, extract_other_field,
    extract_other_flagField, getLsbD_flagField, getLsbD_other_field, getLsbD_other_flagField,
    RankState.code_le, -BitVec.getLsbD_eq_getElem]

theorem refreshWord_fields (s : State) (hdebt : ∀ r, (rankAt s r).debt ≤ 8) :
    (refreshWord s).getLsbD 0 = s.refresh.enable.r0 ∧
      ((refreshWord s).extractLsb' 1 2).toNat = (rankAt s .r0).interval.code ∧
      ((refreshWord s).extractLsb' 4 4).toNat = (rankAt s .r0).debt ∧
      (refreshWord s).getLsbD 8 = s.refresh.enable.r1 ∧
      ((refreshWord s).extractLsb' 9 2).toNat = (rankAt s .r1).interval.code ∧
      ((refreshWord s).extractLsb' 12 4).toNat = (rankAt s .r1).debt := by
  have hdebt0 : s.ranks.r0.debt < 16 := Nat.lt_succ_of_le ((hdebt .r0).trans (by decide))
  have hdebt1 : s.ranks.r1.debt < 16 := Nat.lt_succ_of_le ((hdebt .r1).trans (by decide))
  simp [refreshWord, rankAt, PerRank.get, BitVec.extractLsb'_or, extract_field, extract_other_field,
    extract_other_flagField, getLsbD_flagField, getLsbD_other_field, getLsbD_other_flagField,
    Nat.mod_eq_of_lt, IntervalTimer.code_lt, hdebt0, hdebt1,
    -BitVec.getLsbD_eq_getElem]

/-! ## The sweep status word, with and without a sweep in progress -/

theorem sweepStatusWord_fields {s : State} {step : SweepStep} {w : Sweep}
    (h : s.expander = .sweeping step w) :
    (sweepStatusWord s).getLsbD 0 = true ∧
      ((sweepStatusWord s).extractLsb' 1 2).toNat = w.fields.lane.num ∧
      (sweepStatusWord s).extractLsb' 8 5 = w.tapUnderTest ∧
      (sweepStatusWord s).extractLsb' 16 5 = w.originalTap ∧
      (sweepStatusWord s).extractLsb' 24 8 = w.seq := by
  simp [sweepStatusWord, h, BitVec.extractLsb'_or, extract_field, extract_other_field,
    extract_other_flagField, getLsbD_flagField, getLsbD_other_field,
    Nat.mod_eq_of_lt, quad_num_lt, -BitVec.getLsbD_eq_getElem]

theorem sweepStatusWord_eq_zero {s : State} (h : ∀ step w, s.expander ≠ .sweeping step w) :
    sweepStatusWord s = 0 := by
  unfold sweepStatusWord
  split
  next step w hsweep => exact absurd hsweep (h step w)
  next => rfl

/-! ## The bank words -/

/-- A digit of a number that a list of digits spells, the lowest first. -/
theorem ofDigits_div_pow_mod {p i d : Nat} {digits : List Nat} (hlt : ∀ l ∈ digits, l < p)
    (hd : digits[i]? = some d) : Nat.ofDigits p digits / p ^ i % p = d := by
  obtain ⟨hi, hget⟩ := List.getElem?_eq_some_iff.mp hd
  have hdp : d < p := hlt d (hget ▸ List.getElem_mem hi)
  rw [Nat.ofDigits_div_pow_eq_ofDigits_drop i (by omega) digits hlt, List.drop_eq_getElem_cons hi, hget,
    Nat.ofDigits_cons, Nat.add_mul_mod_self_left, Nat.mod_eq_of_lt hdp]

theorem allBanks_map_bankNumber : allBanks.map bankNumber = List.range 32 := by decide

/-- A bank's number is its place in the bank order (R187). -/
theorem allBanks_getElem?_bankNumber (b : BankAddr) : allBanks[bankNumber b]? = some b := by
  obtain ⟨i, hi, rfl⟩ := List.mem_iff_getElem.mp (mem_allBanks b)
  have hnum : bankNumber allBanks[i] = i := by
    have hmap : (allBanks.map bankNumber)[i]'(by simpa using hi) = i := by
      simp [allBanks_map_bankNumber]
    simpa using hmap
  rw [hnum, List.getElem?_eq_getElem hi]

theorem bankNumber_lt (b : BankAddr) : bankNumber b < 32 :=
  (List.getElem?_eq_some_iff.mp (allBanks_getElem?_bankNumber b)).1

/-- The state codes of the eight banks that a bank word shows, in bank order. -/
def wordCodes (s : State) (w : Quad) : List Nat :=
  ((allBanks.drop (8 * w.num)).take 8).map fun b => (bankAt s b).state.code

theorem wordCodes_lt (s : State) (w : Quad) : ∀ c ∈ wordCodes s w, c < 16 := by
  intro c hc
  obtain ⟨b, -, rfl⟩ := List.mem_map.mp hc
  exact BankState.code_lt _

theorem wordCodes_length_le (s : State) (w : Quad) : (wordCodes s w).length ≤ 8 := by
  simp [wordCodes]

theorem wordCodes_bankNumber (s : State) (b : BankAddr) :
    (wordCodes s (.ofNum (bankNumber b / 8)))[bankNumber b % 8]? = some (bankAt s b).state.code := by
  have hnum : (Quad.ofNum (bankNumber b / 8)).num = bankNumber b / 8 :=
    quad_num_ofNum (by have := bankNumber_lt b; omega)
  have hplace : 8 * (bankNumber b / 8) + bankNumber b % 8 = bankNumber b := Nat.div_add_mod _ 8
  rw [wordCodes, hnum, List.getElem?_map, List.getElem?_take_of_lt (Nat.mod_lt _ (by decide)),
    List.getElem?_drop, hplace, allBanks_getElem?_bankNumber, Option.map_some]

/-- A bank word is the number that its banks' codes spell in base 16. -/
theorem bankWord_toNat (s : State) (w : Quad) : (bankWord s w).toNat = Nat.ofDigits 16 (wordCodes s w) := by
  have hlt : Nat.ofDigits 16 (wordCodes s w) < 2 ^ 32 :=
    calc Nat.ofDigits 16 (wordCodes s w)
      _ < 16 ^ (wordCodes s w).length := Nat.ofDigits_lt_base_pow_length (by decide) (wordCodes_lt s w)
      _ ≤ 16 ^ 8 := Nat.pow_le_pow_right (by decide) (wordCodes_length_le s w)
  have hword : bankWord s w = BitVec.ofNat 32 (Nat.ofDigits 16 (wordCodes s w)) := by
    simp only [bankWord, wordCodes, Nat.ofDigits_eq_foldr, List.foldr_map, Nat.cast_id]
  rw [hword, toNat_ofNat_of_lt hlt]

theorem bankWord_field (s : State) (b : BankAddr) :
    ((bankWord s (.ofNum (bankNumber b / 8))).extractLsb' (4 * (bankNumber b % 8)) 4).toNat =
      (bankAt s b).state.code := by
  rw [BitVec.extractLsb'_toNat, bankWord_toNat, Nat.shiftRight_eq_div_pow, Nat.pow_mul]
  exact ofDigits_div_pow_mod (wordCodes_lt s _) (wordCodes_bankNumber s b)

/-! ## The obligation -/

/-- Settles O16: the codes are those of the model's tables, and each word's fields are read by the lemma of
that word, with the capacities that make its counts fit. -/
theorem statusWordsHoldTheirFields : Obligations.StatusWordsHoldTheirFields := by
  refine ⟨⟨rfl, rfl, rfl, rfl, rfl⟩, ⟨rfl, rfl, rfl, rfl, rfl, rfl⟩,
    ⟨rfl, fun _ _ _ => ⟨rfl, rfl⟩, fun _ => ⟨rfl, rfl⟩, fun _ _ => ⟨rfl, rfl⟩,
      fun _ => ⟨rfl, rfl, rfl, fun _ => rfl⟩⟩,
    ⟨rfl, rfl, fun _ => rfl, fun _ => rfl, rfl⟩, ⟨rfl, rfl⟩, ⟨rfl, fun _ => rfl, fun _ => rfl⟩,
    ⟨⟨rfl, rfl⟩, ⟨rfl, rfl, rfl, rfl⟩, quad_ofNum_num, fun _ => rfl, allBanks_map_bankNumber⟩, ?words⟩
  rintro s ⟨hqueue, hwindow, hreads, hwrites, -, hfail, hcompletions, hranks, -, -, hrung⟩
  have hdebt (r : Rank) : (rankAt s r).debt ≤ 8 := by
    obtain ⟨-, -, hdebt⟩ := hranks r
    exact hdebt
  obtain ⟨hrun, hcause, hdrain, hsettle, hexpander, hseq⟩ := runWord_fields s
  obtain ⟨hheld, hhead, hnext⟩ := queueWord_fields s hqueue
  refine ⟨rfl, ⟨hrun, hcause, hdrain, hsettle, hexpander, hseq, fun hidle => ?noneInHand⟩,
    ⟨hheld, fun d rest hcons => ?head, fun hnil => ?noHead, hnext⟩,
    countsWord_fields s hwindow hreads hwrites hcompletions, eventsWord_fields s hrung,
    extract_setWidth _ (by decide), bankWord_field s, rankWord_fields s,
    refreshWord_fields s hdebt, extract_setWidth _ (by decide), ?failCount,
    extract_setWidth _ (by decide), fun _ _ => sweepStatusWord_fields, sweepStatusWord_eq_zero,
    extract_setWidth _ (by decide)⟩
  case noneInHand => exact hseq.trans (hidle ▸ rfl)
  case head => exact hhead.trans (by simp [headSeq?, hcons])
  case noHead => exact hhead.trans (by simp [headSeq?, hnil])
  case failCount =>
    rw [readWord, extract_field 0 6 _ (by decide), toNat_ofNat_of_lt (by omega)]

end Sys2Proof.Machine
end

/-!
Every command has a meaning, and what it may write. `after` is the state a command answers
(`exec_eq_next`); `footprint` lists, for every command but the two that run others, the parts of the state it
may write, and `same_after` says that it leaves every other part as it was. A law of the state is then kept by
a step when it is kept by the commands that write a part it speaks of, by the issue of a command and by the
passing of a tclk (`Stable.step`).
-/
section

namespace Sys2Proof.Machine

/-! ## The state a command answers -/

/-- The state after a command. -/
def after (s : State) (c : Instr) : State :=
  match exec c s with
  | .next t => t
  | .fault _ => s
  | .refused _ => s

/-- Every command answers a next state. -/
theorem exec_eq_next (c : Instr) (s : State) : exec c s = .next (after s c) := by cases c <;> rfl

theorem after_of_exec {c : Instr} {s t : State} (h : exec c s = .next t) : after s c = t := by
  rw [after, h]

/-! ## REGISTER_WRITE is the row of its own that an access has -/

/-- The engine command of a code is its own row, and a code that names none is a bad access. -/
theorem engineWrite_eq (v : Word) (s : State) :
    engineWrite v s = (engineCommandOf v).elim (countBadAccess s) (after s) := by
  rw [engineWrite, engineCommandOf]
  generalize (v.extractLsb' 0 4).toNat = n
  rcases Nat.lt_or_ge n 12 with h | h
  · interval_cases n <;> rfl
  · obtain ⟨k, rfl⟩ := Nat.exists_eq_add_of_le' h
    rfl

theorem engineWrite_eq_after {v : Word} {c : Instr} (h : engineCommandOf v = some c) (s : State) :
    engineWrite v s = after s c := by
  rw [engineWrite_eq, h, Option.elim_some]

theorem engineWrite_eq_countBadAccess {v : Word} (h : engineCommandOf v = none) (s : State) :
    engineWrite v s = countBadAccess s := by
  rw [engineWrite_eq, h, Option.elim_none]

/-- A write of a word with a row of its own is that row. -/
theorem writeDefined_eq_after {w : WindowWord} {be : BitVec 4} {v : Word} {c : Instr}
    (h : writeRowOf w be v = some c) (s : State) : writeDefined w be v s = after s c := by
  cases w
  case command =>
    simp only [writeRowOf] at h
    split at h
    · next hbe =>
      rw [writeDefined, ifFull, if_pos hbe]
      exact engineWrite_eq_after h s
    · cases h
  all_goals cases h <;> rfl

/-- A read of a word with a row of its own is that row. -/
theorem readDefined_eq_after {w : WindowWord} {be : BitVec 4} {c : Instr} (h : readRowOf w be = some c)
    (s : State) : readDefined w be s = after s c := by
  cases w
  all_goals cases h <;> rfl

theorem busAccess_eq_after {a : BusAccess} {c : Instr} (h : ownRowOf a = some c) (s : State) :
    busAccess a s = after s c := by
  unfold ownRowOf at h
  unfold busAccess
  cases hw : a.word with
  | none => rw [hw] at h; cases h
  | some w =>
    rw [hw] at h
    cases hdir : a.isWrite with
    | true =>
      rw [hdir] at h
      exact writeDefined_eq_after h s
    | false =>
      rw [hdir] at h
      exact readDefined_eq_after h s

/-- REGISTER_WRITE does what the command for its access does. -/
theorem after_commandOf (a : BusAccess) (s : State) :
    after s (commandOf a) = after s (.registerWrite a) := by
  unfold commandOf
  cases h : ownRowOf a with
  | none => rfl
  | some c => exact (busAccess_eq_after h s).symm

/-! ## The parts of the state and the commands that write them -/

/-- The parts of the state that the laws speak of, and the queue of waiting commands. -/
inductive Part
  | pending | working | queue | nextSeq | expander | window | banks | ranks | holds | pendingClose
  | lastRung | inFlight | writePhases | records | taps | runState | readStats | completions
deriving DecidableEq

/-- A part is the same in two states. -/
def Part.Same (s t : State) : Part → Prop
  | .pending => t.pending = s.pending
  | .working => t.timing.working = s.timing.working
  | .queue => t.intake.queue = s.intake.queue
  | .nextSeq => t.intake.nextSeq = s.intake.nextSeq
  | .expander => t.expander = s.expander
  | .window => t.window = s.window
  | .banks => t.banks = s.banks
  | .ranks => t.ranks = s.ranks
  | .holds => t.holds = s.holds
  | .pendingClose => t.arbiter.pendingClose = s.arbiter.pendingClose
  | .lastRung => t.arbiter.lastRung = s.arbiter.lastRung
  | .inFlight => t.reads.inFlight = s.reads.inFlight
  | .writePhases => t.reads.writePhases = s.reads.writePhases
  | .records => t.failLog.records = s.failLog.records
  | .taps => t.sweep.taps = s.sweep.taps
  | .runState => t.run.state = s.run.state
  | .readStats =>
    (t.run.stats.readsIssued, t.run.stats.readsCompleted, t.run.stats.readsLost) =
      (s.run.stats.readsIssued, s.run.stats.readsCompleted, s.run.stats.readsLost)
  | .completions => t.run.completions = s.run.completions

/-- The parts a command may write. REGISTER_WRITE and COMMAND_OPPORTUNITY run other commands and have no
footprint of their own. -/
def footprint : Instr → List Part
  | .powerOnReset =>
    [.working, .queue, .nextSeq, .expander, .window, .banks, .ranks, .holds, .pendingClose, .lastRung,
     .inFlight, .writePhases, .records, .taps, .runState, .readStats, .completions]
  | .softReset =>
    [.queue, .nextSeq, .expander, .window, .banks, .ranks, .holds, .pendingClose, .lastRung, .inFlight,
     .writePhases, .taps, .runState, .readStats, .completions]
  | .push => [.queue, .nextSeq, .expander, .ranks]
  | .start => [.working, .runState, .readStats, .queue, .expander, .ranks]
  | .stop | .resume => [.runState, .queue, .expander, .ranks]
  | .abort => [.runState, .window, .queue, .expander, .taps]
  | .popCompletion => [.completions]
  | .failReleaseOldest | .failClear | .failOffer => [.records]
  | .refreshEnable _ => [.working, .ranks]
  | .refreshDisable _ | .refreshTimeExpiry _ | .intervalExpiry _ => [.ranks]
  | .geometryWrite _ _ | .targetAlert => [.banks, .ranks, .pendingClose]
  | .tapWrite _ _ _ => [.taps]
  | .accessReadyExpiry _ | .restoreExpiry _ | .writeRecoveryExpiry _ | .readCloseWaitExpiry _
  | .closeTimeExpiry _ => [.banks]
  | .holdExpiry _ => [.holds]
  | .pauseExpiry | .fenceTake => [.queue, .expander, .ranks]
  | .deadlineExpiry | .dataArrival => [.inFlight, .queue, .readStats, .expander, .taps]
  | .writeDataPhaseEnd => [.writePhases, .banks, .queue]
  | .haltRequest _ | .drainEnd => [.runState]
  | .accessPlacement => [.window, .queue, .expander, .ranks]
  | .sweepTapSet => [.expander, .taps]
  | .sweepReadPlacement => [.expander, .window]
  | .sweepEnd => [.queue, .expander, .ranks, .taps]
  | .retirement => [.queue, .completions]
  | .abortEnd => [.queue, .runState, .ranks]
  | _ => []

theorem ifFull_cases (be : BitVec 4) (f : State → State) (s : State) :
    ifFull be f s = f s ∨ ifFull be f s = countBadAccess s := by
  unfold ifFull
  split
  · exact .inl rfl
  · exact .inr rfl

theorem ifIdle_cases (f : State → State) (s : State) :
    (s.run.state = .idle ∧ ifIdle f s = f s) ∨ ifIdle f s = countBadAccess s := by
  unfold ifIdle
  split
  · next h => exact .inl ⟨h, rfl⟩
  · exact .inr rfl

/-- A tap write stores the tap in IDLE, and is a bad access otherwise. -/
theorem tapWrite_cases (k : Quad) (be : BitVec 4) (v : Word) (s : State) :
    (s.run.state = .idle ∧ tapWrite k be v s = writeTap k v s) ∨ tapWrite k be v s = countBadAccess s := by
  unfold tapWrite
  rcases ifFull_cases be (ifIdle (writeTap k v)) s with h | h <;> rw [h]
  · exact ifIdle_cases _ s
  · exact .inr rfl

theorem timingSetWrite_cases (p : TimingParam) (be : BitVec 4) (v : Word) (s : State) :
    timingSetWrite p be v s = writeTiming p v s ∨ timingSetWrite p be v s = countBadAccess s := by
  unfold timingSetWrite
  rcases ifFull_cases be (ifIdle (writeTiming p v)) s with h | h <;> rw [h]
  · exact (ifIdle_cases _ s).imp And.right id
  · exact .inr rfl

theorem readDefined_cases (w : WindowWord) (be : BitVec 4) (s : State) :
    readDefined w be s = returnWord (readWord s w) s ∨ readDefined w be s = badRead s := by
  unfold readDefined
  split
  · exact .inl rfl
  · exact .inr rfl

theorem restoreSweptTap_frame (s : State) : ∃ x, restoreSweptTap s = { s with sweep.taps := x } := by
  unfold restoreSweptTap
  split <;> exact ⟨_, rfl⟩

/-- Every command but REGISTER_WRITE and COMMAND_OPPORTUNITY. -/
def Simple : Instr → Bool
  | .registerWrite _ | .commandOpportunity => false
  | _ => true

/-! ## What each command leaves as it was -/

/-- A change leaves every part outside a list as it was. -/
def Keeps (ps : List Part) (s t : State) : Prop := ∀ p, p ∉ ps → p.Same s t

theorem Keeps.refl (ps : List Part) (s : State) : Keeps ps s s := by
  intro p _
  cases p <;> rfl

theorem countBadAccess_keeps (ps : List Part) (s : State) : Keeps ps s (countBadAccess s) := by
  intro p _
  cases p <;> rfl

/-- A write with byte enables keeps what its full form keeps. -/
theorem ifFull_keeps {ps : List Part} {f : State → State} {s : State} (be : BitVec 4)
    (h : Keeps ps s (f s)) : Keeps ps s (ifFull be f s) := by
  rcases ifFull_cases be f s with e | e <;> rw [e]
  · exact h
  · exact countBadAccess_keeps ps s

theorem readDefined_keeps (ps : List Part) (w : WindowWord) (be : BitVec 4) (s : State) :
    Keeps ps s (readDefined w be s) := by
  rcases readDefined_cases w be s with e | e <;> rw [e] <;> intro p _ <;> cases p <;> rfl

theorem powerOnReset_keeps (s : State) :
    Keeps (footprint .powerOnReset) s ({ State.reset with pending := s.pending }) := by
  intro p hp
  cases p <;> first | rfl | exact absurd (by decide) hp

theorem softResetCommand_keeps (s : State) : Keeps (footprint .softReset) s (softResetCommand s) := by
  obtain ⟨_, h⟩ := restoreSweptTap_frame (takeCommand 6 0 s)
  unfold softResetCommand softReset
  rw [h]
  intro p hp
  cases p <;> first | rfl | exact absurd (by decide) hp

theorem pushCommand_keeps (s : State) : Keeps (footprint .push) s (pushCommand s) := by
  obtain ⟨_, _, _, _, _, _, _, _, _, h⟩ := pushCommand_frame s
  rw [h]
  intro p hp
  cases p <;> first | rfl | exact absurd (by decide) hp

theorem startCommand_keeps (s : State) : Keeps (footprint .start) s (startCommand s) := by
  obtain ⟨_, _, _, _, _, _, _, _, _, _, _, _, _, _, _, h⟩ := startCommand_frame s
  rw [h]
  intro p hp
  cases p <;> first | rfl | exact absurd (by decide) hp

theorem stopCommand_keeps (s : State) : Keeps (footprint .stop) s (stopCommand s) := by
  obtain ⟨_, _, _, _, _, _, _, _, _, h⟩ := stopCommand_frame s
  rw [h]
  intro p hp
  cases p <;> first | rfl | exact absurd (by decide) hp

theorem resumeCommand_keeps (s : State) : Keeps (footprint .resume) s (resumeCommand s) := by
  obtain ⟨_, _, _, _, _, _, _, _, _, _, h⟩ := resumeCommand_frame s
  rw [h]
  intro p hp
  cases p <;> first | rfl | exact absurd (by decide) hp

theorem abortCommand_keeps (s : State) : Keeps (footprint .abort) s (abortCommand s) := by
  obtain ⟨_, _, _, _, _, _, _, _, _, _, h⟩ := abortCommand_frame s
  rw [h]
  intro p hp
  cases p <;> first | rfl | exact absurd (by decide) hp

theorem popCommand_keeps (s : State) : Keeps (footprint .popCompletion) s (popCommand s) := by
  obtain ⟨_, _, _, _, _, h⟩ := popCommand_frame s
  rw [h]
  intro p hp
  cases p <;> first | rfl | exact absurd (by decide) hp

theorem failReleaseCommand_keeps (s : State) :
    Keeps (footprint .failReleaseOldest) s (failReleaseCommand s) := by
  obtain ⟨_, _, _, _, _, _, h⟩ := failReleaseCommand_frame s
  rw [h]
  intro p hp
  cases p <;> first | rfl | exact absurd (by decide) hp

theorem failClearCommand_keeps (s : State) : Keeps (footprint .failClear) s (failClearCommand s) := by
  intro p hp
  cases p <;> first | rfl | exact absurd (by decide) hp

theorem failOffer_keeps (s : State) : Keeps (footprint .failOffer) s (failOffer s) := by
  obtain ⟨_, _, _, _, h⟩ := failOffer_frame s
  rw [h]
  intro p hp
  cases p <;> first | rfl | exact absurd (by decide) hp

theorem refreshEnableCommand_keeps (mask : BitVec 2) (s : State) :
    Keeps [.working, .ranks] s (refreshEnableCommand mask s) := by
  obtain ⟨_, _, _, _, _, _, _, _, h⟩ := refreshEnableCommand_frame mask s
  rw [h]
  intro p hp
  cases p <;> first | rfl | exact absurd (by decide) hp

theorem refreshDisableCommand_keeps (mask : BitVec 2) (s : State) :
    Keeps [.ranks] s (refreshDisableCommand mask s) := by
  obtain ⟨_, _, _, _, _, _, h⟩ := refreshDisableCommand_frame mask s
  rw [h]
  intro p hp
  cases p <;> first | rfl | exact absurd (by decide) hp

theorem timingSetWrite_keeps (p : TimingParam) (be : BitVec 4) (v : Word) (s : State) :
    Keeps [] s (timingSetWrite p be v s) := by
  rcases timingSetWrite_cases p be v s with h | h <;> rw [h]
  · intro p _
    cases p <;> rfl
  · exact countBadAccess_keeps _ s

theorem geometryWrite_keeps (be : BitVec 4) (v : Word) (s : State) :
    Keeps [.banks, .ranks, .pendingClose] s (geometryWrite be v s) := by
  obtain ⟨_, _, _, _, _, h⟩ := geometryWrite_frame be v s
  rw [h]
  intro p hp
  cases p <;> first | rfl | exact absurd (by decide) hp

theorem tapWrite_keeps (k : Quad) (be : BitVec 4) (v : Word) (s : State) :
    Keeps [.taps] s (tapWrite k be v s) := by
  rcases tapWrite_cases k be v s with ⟨_, h⟩ | h <;> rw [h]
  · intro p hp
    cases p <;> first | rfl | exact absurd (by decide) hp
  · exact countBadAccess_keeps _ s

theorem targetAlert_keeps (s : State) : Keeps (footprint .targetAlert) s (targetAlert s) := by
  unfold targetAlert
  split
  · exact Keeps.refl _ s
  · obtain ⟨_, _, _, _, _, h⟩ := takeAlert_frame { s with capture.alertWasActive := true }
    rw [h]
    intro p hp
    cases p <;> first | rfl | exact absurd (by decide) hp

theorem modifyBank_keepsParts (b : BankAddr) (f : BankRecord → BankRecord) (s : State) :
    Keeps [.banks] s (modifyBank b f s) := by
  intro p hp
  cases p <;> first | rfl | exact absurd (by decide) hp

theorem modifyRank_keeps (r : Rank) (f : RankRecord → RankRecord) (s : State) :
    Keeps [.ranks] s (modifyRank r f s) := by
  intro p hp
  cases p <;> first | rfl | exact absurd (by decide) hp

theorem expireHold_keeps (i : HoldId) (s : State) : Keeps [.holds] s (expireHold i s) := by
  intro p hp
  cases p <;> first | rfl | exact absurd (by decide) hp

theorem intervalExpiry_keepsParts (r : Rank) (s : State) : Keeps [.ranks] s (intervalExpiry r s) := by
  obtain ⟨_, _, _, _, h⟩ := intervalExpiry_frame r s
  rw [h]
  intro p hp
  cases p <;> first | rfl | exact absurd (by decide) hp

theorem pauseExpiry_keepsParts (s : State) : Keeps (footprint .pauseExpiry) s (pauseExpiry s) := by
  obtain ⟨_, _, _, _, _, h⟩ := pauseExpiry_frame s
  rw [h]
  intro p hp
  cases p <;> first | rfl | exact absurd (by decide) hp

theorem deadlineExpiry_keepsParts (s : State) : Keeps (footprint .deadlineExpiry) s (deadlineExpiry s) := by
  obtain ⟨_, _, _, _, _, _, _, h⟩ := deadlineExpiry_frame s
  rw [h]
  intro p hp
  cases p <;> first | rfl | exact absurd (by decide) hp

theorem writeDataPhaseEnd_keepsParts (s : State) :
    Keeps (footprint .writeDataPhaseEnd) s (writeDataPhaseEnd s) := by
  obtain ⟨_, _, _, h⟩ := writeDataPhaseEnd_frame s
  rw [h]
  intro p hp
  cases p <;> first | rfl | exact absurd (by decide) hp

theorem dataArrival_keepsParts (s : State) : Keeps (footprint .dataArrival) s (dataArrival s) := by
  obtain ⟨_, _, _, _, _, _, _, _, _, _, h⟩ := dataArrival_frame s
  rw [h]
  intro p hp
  cases p <;> first | rfl | exact absurd (by decide) hp

theorem haltRequest_keeps (c : HaltCause) (s : State) : Keeps [.runState] s (haltRequest c s) := by
  obtain ⟨_, _, _, _, _, h⟩ := haltRequest_frame c s
  rw [h]
  intro p hp
  cases p <;> first | rfl | exact absurd (by decide) hp

theorem fenceTake_keeps (s : State) : Keeps (footprint .fenceTake) s (fenceTake s) := by
  obtain ⟨_, _, _, _, _, h⟩ := fenceTake_frame s
  rw [h]
  intro p hp
  cases p <;> first | rfl | exact absurd (by decide) hp

theorem accessPlacement_keeps (s : State) : Keeps (footprint .accessPlacement) s (accessPlacement s) := by
  obtain ⟨_, _, _, _, _, _, h⟩ := accessPlacement_frame s
  rw [h]
  intro p hp
  cases p <;> first | rfl | exact absurd (by decide) hp

theorem sweepTapSet_keeps (s : State) : Keeps (footprint .sweepTapSet) s (sweepTapSet s) := by
  obtain ⟨_, _, h⟩ := sweepTapSet_frame s
  rw [h]
  intro p hp
  cases p <;> first | rfl | exact absurd (by decide) hp

theorem sweepReadPlacement_keeps (s : State) :
    Keeps (footprint .sweepReadPlacement) s (sweepReadPlacement s) := by
  obtain ⟨_, _, h⟩ := sweepReadPlacement_frame s
  rw [h]
  intro p hp
  cases p <;> first | rfl | exact absurd (by decide) hp

theorem sweepEnd_keeps (s : State) : Keeps (footprint .sweepEnd) s (sweepEnd s) := by
  obtain ⟨_, _, _, _, _, h⟩ := sweepEnd_frame s
  rw [h]
  intro p hp
  cases p <;> first | rfl | exact absurd (by decide) hp

theorem retirement_keeps (s : State) : Keeps (footprint .retirement) s (retirement s) := by
  obtain ⟨_, _, _, h⟩ := retirement_frame s
  rw [h]
  intro p hp
  cases p <;> first | rfl | exact absurd (by decide) hp

theorem drainEnd_keeps (s : State) : Keeps (footprint .drainEnd) s (drainEnd s) := by
  unfold drainEnd
  split
  · intro p hp
    cases p <;> first | rfl | exact absurd (by decide) hp
  · exact Keeps.refl _ s

theorem abortEnd_keeps (s : State) : Keeps (footprint .abortEnd) s (abortEnd s) := by
  unfold abortEnd
  split
  · intro p hp
    cases p <;> first | rfl | exact absurd (by decide) hp
  · exact Keeps.refl _ s

theorem settlePeriodEnd_keepsParts (s : State) : Keeps [] s (settlePeriodEnd s) := by
  obtain ⟨_, h⟩ := settlePeriodEnd_frame s
  rw [h]
  intro p _
  cases p <;> rfl

theorem strobeEdge_keeps (k : Quad) (p : Fin 64) (v : Vector Byte 32) (s : State) :
    Keeps [] s (strobeEdge k p v s) := by
  obtain ⟨_, _, h⟩ := strobeEdge_frame k p v s
  rw [h]
  intro p _
  cases p <;> rfl

/-- A command leaves every part outside its footprint as it was. -/
theorem after_keeps {c : Instr} (hc : Simple c = true) (s : State) :
    Keeps (footprint c) s (after s c) := by
  cases c with
  | registerWrite a => cases hc
  | commandOpportunity => cases hc
  | powerOnReset => exact powerOnReset_keeps s
  | push => exact pushCommand_keeps s
  | start => exact startCommand_keeps s
  | stop => exact stopCommand_keeps s
  | resume => exact resumeCommand_keeps s
  | abort => exact abortCommand_keeps s
  | softReset => exact softResetCommand_keeps s
  | popCompletion => exact popCommand_keeps s
  | failReleaseOldest => exact failReleaseCommand_keeps s
  | failClear => exact failClearCommand_keeps s
  | refreshEnable mask => exact refreshEnableCommand_keeps mask s
  | refreshDisable mask => exact refreshDisableCommand_keeps mask s
  | timingSetWrite p be v => exact timingSetWrite_keeps p be v s
  | geometryWrite be v => exact geometryWrite_keeps be v s
  | tapWrite k be v => exact tapWrite_keeps k be v s
  | completionPortRead w be => exact readDefined_keeps _ _ be s
  | failRecordRead w be => exact readDefined_keeps _ _ be s
  | targetAlert => exact targetAlert_keeps s
  | accessReadyExpiry b => exact modifyBank_keepsParts b _ s
  | restoreExpiry b => exact modifyBank_keepsParts b _ s
  | writeRecoveryExpiry b => exact modifyBank_keepsParts b _ s
  | readCloseWaitExpiry b => exact modifyBank_keepsParts b _ s
  | closeTimeExpiry b => exact modifyBank_keepsParts b _ s
  | refreshTimeExpiry r => exact modifyRank_keeps r _ s
  | holdExpiry i => exact expireHold_keeps i s
  | pageHoldExpiry b => exact Keeps.refl _ s
  | intervalExpiry r => exact intervalExpiry_keepsParts r s
  | pauseExpiry => exact pauseExpiry_keepsParts s
  | deadlineExpiry => exact deadlineExpiry_keepsParts s
  | writeDataPhaseEnd => exact writeDataPhaseEnd_keepsParts s
  | dataArrival => exact dataArrival_keepsParts s
  | failOffer => exact failOffer_keeps s
  | haltRequest cause => exact haltRequest_keeps cause s
  | fenceTake => exact fenceTake_keeps s
  | accessPlacement => exact accessPlacement_keeps s
  | sweepTapSet => exact sweepTapSet_keeps s
  | sweepReadPlacement => exact sweepReadPlacement_keeps s
  | sweepEnd => exact sweepEnd_keeps s
  | retirement => exact retirement_keeps s
  | drainEnd => exact drainEnd_keeps s
  | abortEnd => exact abortEnd_keeps s
  | settlePeriodEnd => exact settlePeriodEnd_keepsParts s
  | strobeEdge k p v => exact strobeEdge_keeps k p v s
  | alertInactiveSample => exact fun p _ => by cases p <;> rfl
  | patternSlotWrite i be v => exact ifFull_keeps be fun p _ => by cases p <;> rfl
  | laneIgnoreMaskWrite be v => exact ifFull_keeps be fun p _ => by cases p <;> rfl
  | recordIndexWrite be v => exact ifFull_keeps be fun p _ => by cases p <;> rfl
  | failLimitWrite be v => exact ifFull_keeps be fun p _ => by cases p <;> rfl
  | haltOnRefreshMissWrite be v => exact ifFull_keeps be fun p _ => by cases p <;> rfl
  | interruptFlagsWrite be v => exact ifFull_keeps be fun p _ => by cases p <;> rfl
  | interruptEnablesWrite be v => exact ifFull_keeps be fun p _ => by cases p <;> rfl
  | badAccessCounterWrite be v => exact ifFull_keeps be fun p _ => by cases p <;> rfl

end Sys2Proof.Machine
end

/-!
The command opportunity and the step. What is still due in a tclk is taken by the commands of the events, one
after another (`settleOverdue_eq_foldl`), so a law of the state that the commands keep, the issue of a command
keeps and the passing of a tclk keeps is kept by every step (`Stable.step`).
-/
section

namespace Sys2Proof.Machine

/-! ## What is due in a tclk, as commands of its own (log 3) -/

/-- The five timer expiries of a bank. -/
def bankExpiries (b : BankAddr) : List Instr :=
  [.accessReadyExpiry b, .restoreExpiry b, .writeRecoveryExpiry b, .readCloseWaitExpiry b,
   .closeTimeExpiry b]

/-- The events that a tclk takes at its end, in their order. -/
def overdue (s : State) : List Instr :=
  allBanks.flatMap bankExpiries ++
    [.refreshTimeExpiry .r0, .refreshTimeExpiry .r1, .writeDataPhaseEnd] ++
    List.replicate (s.capture.arrivals.length + 1) .dataArrival ++
    [.deadlineExpiry, .intervalExpiry .r0, .intervalExpiry .r1, .pauseExpiry, .settlePeriodEnd]

theorem foldl_after_bankExpiries (b : BankAddr) (s : State) :
    (bankExpiries b).foldl after s = modifyBank b BankRecord.expireAll s := by
  change modifyBank b BankRecord.expireCloseTime (modifyBank b BankRecord.expireReadCloseWait
    (modifyBank b BankRecord.expireWriteRecovery (modifyBank b BankRecord.expireRestore
      (modifyBank b BankRecord.expireAccessReady s)))) = _
  simp only [modifyBank_modifyBank]
  rfl

/-- The same change to every bank of a list without repetition. -/
theorem foldl_modifyBank (f : BankRecord → BankRecord) (l : List BankAddr) (hl : l.Nodup) (s : State) :
    ∃ x, l.foldl (fun s b => modifyBank b f s) s = { s with banks := x } ∧
      ∀ c, bankAt { s with banks := x } c = if c ∈ l then f (bankAt s c) else bankAt s c := by
  induction l generalizing s with
  | nil => exact ⟨s.banks, rfl, fun c => rfl⟩
  | cons b l ih =>
    obtain ⟨hb, hl⟩ := List.nodup_cons.mp hl
    obtain ⟨x, hx, hbank⟩ := ih hl (modifyBank b f s)
    refine ⟨x, hx, fun c => (hbank c).trans ?_⟩
    rw [bankAt_modifyBank]
    by_cases hc : c = b
    · subst hc
      simp [hb]
    · simp [hc]

theorem foldl_flatMap_bankExpiries (l : List BankAddr) (s : State) :
    (l.flatMap bankExpiries).foldl after s =
      l.foldl (fun s b => modifyBank b BankRecord.expireAll s) s := by
  induction l generalizing s with
  | nil => rfl
  | cons b l ih => rw [List.flatMap_cons, List.foldl_append, foldl_after_bankExpiries, ih, List.foldl_cons]

/-- The expiries of every bank, one after another, are the expiry of the whole table's bank timers. -/
theorem foldl_allBanks_expiries (s : State) :
    (allBanks.flatMap bankExpiries).foldl after s = mapBanks BankRecord.expireAll s := by
  obtain ⟨x, hx, hbank⟩ := foldl_modifyBank BankRecord.expireAll allBanks (by decide) s
  have hx' : x = (mapBanks BankRecord.expireAll s).banks := by
    apply Banks.ext_get
    intro c
    refine (hbank c).trans ?_
    rw [if_pos (mem_allBanks c)]
    exact (bankAt_mapBanks c BankRecord.expireAll s).symm
  rw [foldl_flatMap_bankExpiries, hx, hx']
  rfl

theorem expireTable_eq_foldl (s : State) :
    expireTable s =
      (allBanks.flatMap bankExpiries ++
        [Instr.refreshTimeExpiry .r0, .refreshTimeExpiry .r1]).foldl after s := by
  rw [List.foldl_append, foldl_allBanks_expiries]
  rfl

theorem repeatArrivals_eq_foldl (n : Nat) (s : State) :
    repeatArrivals n s = (List.replicate n Instr.dataArrival).foldl after s := by
  induction n generalizing s with
  | zero => rfl
  | succ n ih => rw [repeatArrivals, ih]; rfl

theorem writeDataPhaseEnd_expireTable_capture (s : State) :
    (writeDataPhaseEnd (expireTable s)).capture = s.capture := by
  obtain ⟨_, _, _, h⟩ := writeDataPhaseEnd_frame (expireTable s)
  rw [h]
  rfl

/-- What is due in a tclk is taken as the commands of the events take it. -/
theorem settleOverdue_eq_foldl (s : State) : settleOverdue s = (overdue s).foldl after s := by
  rw [settleOverdue, takeArrivals, writeDataPhaseEnd_expireTable_capture, repeatArrivals_eq_foldl,
    expireTable_eq_foldl]
  simp only [overdue, List.foldl_append]
  rfl

/-- Settles O41: the opportunity follows the choice, and what is due is taken as commands of its own. -/
theorem opportunityIssuesOrPasses : Obligations.OpportunityIssuesOrPasses := by
  intro s
  refine ⟨rfl, fun n c h => takeOpportunity_some h, fun h => ?_, fun h => ?_, settleOverdue_eq_foldl s⟩
  · rw [takeOpportunity, h]
    rfl
  · have hsettling : settling s = true := Option.isSome_iff_ne_none.mpr h
    rw [choose, if_pos hsettling]

/-! ## Laws that every step keeps -/

theorem simple_of_mem_overdue {s : State} {c : Instr} (h : c ∈ overdue s) : Simple c = true := by
  simp only [overdue, bankExpiries, List.mem_append, List.mem_flatMap, List.mem_replicate, List.mem_cons,
    List.not_mem_nil, or_false] at h
  rcases h with ((⟨b, -, h⟩ | h) | ⟨-, h⟩) | h
  · rcases h with rfl | rfl | rfl | rfl | rfl <;> rfl
  · rcases h with rfl | rfl | rfl <;> rfl
  · subst h; rfl
  · rcases h with rfl | rfl | rfl | rfl | rfl <;> rfl

/-- What holds of a state and is kept by every event due in its tclk holds after all of them. -/
theorem settleOverdue_of_events {P : State → Prop} {s : State}
    (hcmd : ∀ c ∈ overdue s, ∀ x, P x → P (after x c)) (hs : P s) : P (settleOverdue s) := by
  rw [settleOverdue_eq_foldl]
  revert hcmd hs
  generalize overdue s = l
  intro hcmd hs
  induction l generalizing s with
  | nil => exact hs
  | cons c l ih =>
    exact ih (fun d hd => hcmd d (List.mem_cons_of_mem c hd)) (hcmd c List.mem_cons_self s hs)

/-- A law of the state that the commands, the issue of a command and the passing of a tclk keep. -/
structure Stable (P : State → Prop) : Prop where
  pending : ∀ {s} q, P s → P (s.withPending q)
  host : ∀ {s} h, P s → P { s with host := h }
  command : ∀ {c}, Simple c = true → ∀ {s}, P s → P (after s c)
  opportunity : ∀ {s}, P s → P (takeOpportunity s)
  tclk : ∀ {s}, P s → P (passTclk s)

theorem simple_of_ownRowOf {a : BusAccess} {c : Instr} (h : ownRowOf a = some c) : Simple c = true := by
  unfold ownRowOf at h
  split at h
  · next w _ =>
    split at h
    · cases w
      case command =>
        simp only [writeRowOf, engineCommandOf] at h
        split at h
        · split at h <;> cases h <;> rfl
        · cases h
      all_goals cases h <;> rfl
    · cases w <;> cases h <;> rfl
  · cases h

theorem writeDefined_of_no_row {w : WindowWord} {be : BitVec 4} {v : Word}
    (h : writeRowOf w be v = none) (s : State) : ∃ x, writeDefined w be v s = { s with host := x } := by
  cases w
  case command =>
    simp only [writeRowOf] at h
    split at h
    · next hbe =>
      rw [writeDefined, ifFull, if_pos hbe, engineWrite_eq_countBadAccess h]
      exact ⟨_, rfl⟩
    · next hbe =>
      rw [writeDefined, ifFull, if_neg hbe]
      exact ⟨_, rfl⟩
  case staging i =>
    rcases ifFull_cases be (writeStaging i v) s with e | e <;> rw [writeDefined, e] <;> exact ⟨_, rfl⟩
  all_goals first | exact ⟨_, rfl⟩ | cases h

theorem readDefined_host (w : WindowWord) (be : BitVec 4) (s : State) :
    ∃ x, readDefined w be s = { s with host := x } := by
  rcases readDefined_cases w be s with e | e <;> rw [e] <;> exact ⟨_, rfl⟩

/-- A local-bus access is a command of its own, or changes the register window's own registers alone. -/
theorem registerWrite_cases (a : BusAccess) (s : State) :
    (∃ c, Simple c = true ∧ after s (.registerWrite a) = after s c) ∨
      ∃ x, after s (.registerWrite a) = { s with host := x } := by
  cases h : ownRowOf a with
  | some c => exact .inl ⟨c, simple_of_ownRowOf h, busAccess_eq_after h s⟩
  | none =>
    refine .inr ?_
    change ∃ x, busAccess a s = _
    unfold busAccess
    unfold ownRowOf at h
    cases hw : a.word with
    | none => cases a.isWrite <;> exact ⟨_, rfl⟩
    | some w =>
      cases hdir : a.isWrite with
      | true =>
        rw [hw, hdir] at h
        exact writeDefined_of_no_row h s
      | false => exact readDefined_host w a.be s

namespace Stable

variable {P : State → Prop}

theorem commandOpportunity (h : Stable P) {s : State} (hs : P s) : P (commandOpportunity s) :=
  h.tclk <| settleOverdue_of_events (fun _ hc _ => h.command (simple_of_mem_overdue hc))
    (h.opportunity hs)

/-- A stable law is kept by every command. -/
theorem after (h : Stable P) (c : Instr) {s : State} (hs : P s) : P (after s c) := by
  cases hc : Simple c with
  | true => exact h.command hc hs
  | false =>
    cases c with
    | commandOpportunity => exact h.commandOpportunity hs
    | registerWrite a =>
      rcases registerWrite_cases a s with ⟨c, hc, e⟩ | ⟨x, e⟩ <;> rw [e]
      · exact h.command hc hs
      · exact h.host x hs
    | _ => cases hc

/-- A stable law is kept by every step. -/
theorem step (h : Stable P) {s t : State} (hs : P s) (ht : step s = .next t) : P t := by
  unfold Machine.step at ht
  split at ht
  · next c rest _ =>
    rw [← after_of_exec ht]
    exact h.after c (h.pending rest hs)
  · cases ht
    exact hs

end Stable

/-- A law that speaks of some parts of the state alone. -/
def DependsOn (ps : List Part) (P : State → Prop) : Prop :=
  ∀ s t : State, (∀ p ∈ ps, p.Same s t) → P s → P t

/-- No command writes a part of the list. -/
def Avoids (c : Instr) (ps : List Part) : Bool := ps.all fun p => !(footprint c).contains p

theorem DependsOn.after {ps : List Part} {P : State → Prop} (h : DependsOn ps P) {c : Instr}
    (hc : Simple c = true) (havoids : Avoids c ps = true) {s : State} (hs : P s) :
    P (Machine.after s c) := by
  refine h s _ (fun p hp => after_keeps hc s p fun hmem => ?_) hs
  have := List.all_eq_true.mp havoids p hp
  simp [hmem] at this

/-- A law that speaks of some parts is stable when it is kept by the commands that write one of them. -/
theorem DependsOn.stable {ps : List Part} {P : State → Prop} (h : DependsOn ps P)
    (hpending : Part.pending ∉ ps)
    (hcmd : ∀ {c}, Simple c = true → Avoids c ps = false → ∀ {s}, P s → P (Machine.after s c))
    (hopp : ∀ {s}, P s → P (takeOpportunity s)) (htclk : ∀ {s}, P s → P (passTclk s)) : Stable P where
  pending q hs := h _ _ (fun p hp => by
    cases p <;> first | rfl | exact absurd hp hpending) hs
  host x hs := h _ _ (fun p hp => by cases p <;> rfl) hs
  command {c} hc s hs := by
    cases ha : Avoids c ps with
    | true => exact h.after hc ha hs
    | false => exact hcmd hc ha hs
  opportunity := hopp
  tclk := htclk

end Sys2Proof.Machine
end

/-!
The step, the queue of waiting commands, the rows of a local-bus access, and the state right after power-on
reset: its banks, ranks and holds have one value each (`bankAt_reset`, `rankAt_reset`, `holds_reset`), from
which the power-on values and the laws at reset are read off.
-/
section

namespace Sys2Proof.Machine

/-! ## The step and the queue of waiting commands -/

/-- Settles O1: the queue put in place is the one the step looks at. -/
theorem stepRunsFrontCommand : Obligations.StepRunsFrontCommand := by
  intro c rest s
  refine ⟨?_, rfl⟩
  change exec c ((s.withPending (c :: rest)).withPending rest) = _
  congr 1

theorem pending_not_mem_footprint (c : Instr) : Part.pending ∉ footprint c := by
  have h : (footprint c).contains Part.pending = false := by cases c <;> rfl
  simpa using h

/-- No command changes the queue of waiting commands. -/
theorem after_pending (c : Instr) (s : State) : (after s c).pending = s.pending := by
  have hsimple {c : Instr} (hc : Simple c = true) : (after s c).pending = s.pending :=
    after_keeps hc s .pending (pending_not_mem_footprint c)
  cases hc : Simple c with
  | true => exact hsimple hc
  | false =>
    cases c with
    | commandOpportunity => exact (commandOpportunity_keeps s).1
    | registerWrite a =>
      rcases registerWrite_cases a s with ⟨c, hc, e⟩ | ⟨x, e⟩ <;> rw [e]
      exact hsimple hc
    | _ => cases hc

/-- Settles O2: every command answers `after`, and no command writes the queue of waiting commands. -/
theorem everyCommandCompletes : Obligations.EveryCommandCompletes := fun c s =>
  ⟨after s c, exec_eq_next c s, after_pending c s⟩

/-! ## The rows of a local-bus access -/

theorem fullEnables_iff (be : BitVec 4) : fullEnables be = true ↔ be = 0xF#4 := by
  simp only [fullEnables, beq_iff_eq]

theorem commandOf_write {a : BusAccess} {w : WindowWord} (hdir : a.isWrite = true) (hw : a.word = some w) :
    commandOf a = (writeRowOf w a.be a.data).getD (.registerWrite a) := by
  simp only [commandOf, ownRowOf, hw, hdir, if_true]
  cases writeRowOf w a.be a.data <;> rfl

theorem commandOf_read {a : BusAccess} {w : WindowWord} (hdir : a.isWrite = false) (hw : a.word = some w) :
    commandOf a = (readRowOf w a.be).getD (.registerWrite a) := by
  simp only [commandOf, ownRowOf, hw, hdir, Bool.false_eq_true, if_false]
  cases readRowOf w a.be <;> rfl

/-- The code of an engine command is the written word's value modulo 16 (R185). -/
theorem extractLsb'_zero_four_toNat (v : Word) : (v.extractLsb' 0 4).toNat = v.toNat % 16 := by
  simp [BitVec.extractLsb'_toNat]

/-- Settles O15: the access runs its own row, and each word's row is the one that `writeRowOf` and
`readRowOf` give it. -/
theorem busAccessIsItsRow : Obligations.BusAccessIsItsRow := by
  refine ⟨fun a s => ?run, fun a => ⟨fun hdir hw hbe => ?engine, fun hdir w hw hne => ?write,
    fun hdir w hw => ?read, ?none⟩⟩
  case run => rw [exec_eq_next, exec_eq_next, after_commandOf]
  case engine =>
    rw [commandOf_write hdir hw, writeRowOf, if_pos ((fullEnables_iff _).mpr hbe), engineCommandOf,
      extractLsb'_zero_four_toNat]
    generalize a.data.toNat % 16 = n
    rcases Nat.lt_or_ge n 12 with h | h
    · interval_cases n <;> rfl
    · obtain ⟨k, rfl⟩ := Nat.exists_eq_add_of_le' h
      rfl
  case write =>
    rw [commandOf_write hdir hw]
    cases w
    case command => exact absurd rfl hne
    all_goals rfl
  case read =>
    rw [commandOf_read hdir hw]
    cases w <;> rfl
  case none =>
    rintro (hw | ⟨hdir, hw, hbe⟩)
    · unfold commandOf ownRowOf
      rw [hw]
    · rw [commandOf_write hdir hw, writeRowOf, if_neg fun h => hbe ((fullEnables_iff _).mp h)]
      rfl

/-! ## The state right after power-on reset -/

@[simp] theorem bankAt_reset (b : BankAddr) : bankAt State.reset b = .initial := by
  simp [bankAt, State.reset]

@[simp] theorem rankAt_reset (r : Rank) : rankAt State.reset r = .initial := by
  simp [rankAt, State.reset]

@[simp] theorem holds_get_expired (h : HoldId) : Holds.expired.get h = .stopped := by
  cases h <;> simp [Holds.get, Holds.expired]

/-- Settles O17: the values of `State.reset`, those of the banks, ranks and holds by their lemmas. -/
theorem powerOnResetValues : Obligations.PowerOnResetValues := by
  have hslots (i : Fin 8) : (Vector.replicate 8 (0 : Byte))[i] = 0 := Vector.getElem_replicate i.isLt
  have hstaging (i : Fin 8) : (Vector.replicate 8 (0 : Word))[i] = 0 := Vector.getElem_replicate i.isLt
  have htable (t : BitVec 5) : sweepEntryAt State.reset t = ⟨false, 0⟩ := Vector.getElem_replicate t.isLt
  have hholds (h : HoldId) : holdExpired State.reset h = true := by
    rw [holdExpired_iff]
    exact congrArg Timer.remaining (holds_get_expired h)
  exact ⟨fun _ => rfl, hstaging, rfl, rfl, rfl, rfl, rfl, rfl, rfl, rfl, rfl, rfl, rfl, rfl, rfl,
    bankAt_reset, rankAt_reset, hholds, rfl, rfl, rfl, rfl, rfl, hslots, rfl, rfl, rfl, rfl, rfl, rfl,
    rfl, rfl, rfl, rfl, rfl, htable, rfl, rfl, rfl, rfl, rfl, rfl, rfl, rfl, rfl, rfl, rfl⟩

/-- The power-on timing set is within the ranges and constraints of R65. -/
theorem powerOn_valid (p : TimingParam) :
    inRange .powerOn p = true ∧ meetsConstraint .powerOn p = true := by
  cases p <;> decide

/-- Settles O3: at reset every list is empty and every bank and rank at its initial value. -/
theorem lawsHoldAtReset : Obligations.LawsHoldAtReset := by
  refine ⟨?capacity, List.nodup_nil, fun i h => absurd h (Nat.not_lt_zero i), ?quiet, fun _ _ _ => rfl,
    ?close, fun b => ?recovery, powerOn_valid, fun b => ?counted, List.Pairwise.nil,
    fun p hp => absurd hp List.not_mem_nil⟩
  case capacity =>
    refine ⟨by decide, by decide, by decide, by decide, by decide, by decide, by decide, fun r => ?_,
      fun b => ?_, fun a ha => absurd ha List.not_mem_nil, by decide⟩
    · rw [rankAt_reset]
      decide
    · rw [bankAt_reset]
      decide
  case quiet => exact ⟨fun _ => ⟨rfl, rfl, rfl, rfl, fun d hd => absurd hd List.not_mem_nil⟩, fun _ => rfl⟩
  case close =>
    have hpending (b : BankAddr) : (bankAt State.reset b).closePending = false := by
      rw [bankAt_reset]
      rfl
    refine ⟨List.nodup_nil, fun b => ?_, fun b hb => ?_⟩
    · rw [hpending]
      exact ⟨fun hb => absurd hb List.not_mem_nil, fun hb => by cases hb⟩
    · rw [hpending] at hb
      cases hb
  case recovery =>
    rw [rankAt_reset, bankAt_reset]
    exact ⟨fun _ => rfl, fun _ => rfl⟩
  case counted =>
    rw [bankAt_reset]
    rfl

/-! ## The completion FIFO -/

/-- Settles O27: the oldest record is removed, or there is none. -/
theorem popRemovesOldest : Obligations.PopRemovesOldest := by
  intro s
  change (∀ c rest, _ → Host.Outcome.next (popCommand s) = _) ∧ (_ → Host.Outcome.next (popCommand s) = _)
  refine ⟨fun c rest h => ?_, fun h => ?_⟩
  · rw [popCommand]
    simp only [takeCommand_run, h]
    rfl
  · rw [popCommand]
    simp only [takeCommand_run, h]
    rfl

end Sys2Proof.Machine
end

/-!
The working timing set and the held seqs. START and REFRESH_ENABLE copy only values that passed their checks
(`startCommand_cases`, `refreshEnableCommand_cases`). Of the queue, a command keeps the seqs, drops the oldest,
appends the next one or drops them all (`after_seqs`).
-/
section

namespace Sys2Proof.Machine

/-! ## What an examination and the enabling of ranks leave as they were -/

theorem examine_keeps (s : State) : Keeps [.queue, .expander, .ranks] s (examine s) := by
  obtain ⟨_, _, _, _, _, h⟩ := examine_frame s
  rw [h]
  intro p hp
  cases p <;> first | rfl | exact absurd (by decide) hp

theorem forNamed_frame {f : Rank → State → State}
    (hf : ∀ r s, ∃ x y, f r s = { s with refresh.enable := x, ranks := y }) (mask : BitVec 2) (s : State) :
    ∃ x y, forNamed mask f s = { s with refresh.enable := x, ranks := y } := by
  simp only [forNamed, bothRanks, List.foldl]
  obtain ⟨_, _, h0⟩ := hf .r0 s
  split <;> split
  · rw [h0]
    obtain ⟨_, _, h1⟩ := hf .r1 _
    rw [h1]
    exact ⟨_, _, rfl⟩
  · exact hf .r1 s
  · exact ⟨_, _, h0⟩
  · exact ⟨_, _, rfl⟩

theorem enableRank_frame (r : Rank) (s : State) :
    ∃ x y, enableRank r s = { s with refresh.enable := x, ranks := y } := ⟨_, _, rfl⟩

/-! ## What START and REFRESH_ENABLE do (R68, R69, R153) -/

theorem TimingParam.mem_all (p : TimingParam) : p ∈ TimingParam.all := by cases p <;> decide

/-- No parameter is reported exactly when every one passes. -/
theorem firstBadParam_eq_none (t : TimingSet) :
    firstBadParam t = none ↔ ∀ p, inRange t p = true ∧ meetsConstraint t p = true := by
  simp [firstBadParam, TimingParam.mem_all]

theorem firstBadParam_of_startFault {s : State} (h : startFault s = none) :
    firstBadParam s.timing.stored = none := by
  unfold startFault at h
  split at h
  · cases h
  · assumption

/-- START is refused, or enters RUNNING with a stored set in which every item passes. -/
theorem startCommand_cases (s : State) :
    (∃ c d, startCommand s = answer c d (takeCommand 2 0 s)) ∨
      (s.run.state = .idle ∧ startFault s = none ∧
        startCommand s = examine (enterRunning (takeCommand 2 0 s))) := by
  have hfault : startFault (takeCommand 2 0 s) = startFault s := rfl
  unfold startCommand
  simp only [takeCommand_run, hfault]
  split
  · next hidle =>
    cases h : startFault s with
    | some i => exact .inl ⟨_, _, rfl⟩
    | none => exact .inr ⟨hidle, rfl, rfl⟩
  · exact .inl ⟨_, _, rfl⟩

/-- REFRESH_ENABLE is refused, or loads a pair of which both are in range. -/
theorem refreshEnableCommand_cases (mask : BitVec 2) (s : State) :
    (∃ i, refreshEnableCommand mask s = answer .configInvalid i (takeCommand 10 mask s)) ∨
      (inRange s.timing.stored .refreshInterval = true ∧ inRange s.timing.stored .refreshTime = true ∧
        refreshEnableCommand mask s =
          answer .accepted 0 (forNamed mask enableRank (loadRefreshPair (takeCommand 10 mask s)))) := by
  unfold refreshEnableCommand refreshPairFault
  cases hi : inRange s.timing.stored .refreshInterval with
  | false => exact .inl ⟨_, rfl⟩
  | true =>
    cases ht : inRange s.timing.stored .refreshTime with
    | false => exact .inl ⟨_, rfl⟩
    | true => exact .inr ⟨rfl, rfl, rfl⟩

/-! ## The working set stays valid -/

theorem workingSetValid_dependsOn : DependsOn [.working] WorkingSetValid := by
  intro s t h hs p
  have hw : t.timing.working = s.timing.working := h .working (by decide)
  rw [hw]
  exact hs p

theorem startCommand_workingSetValid {s : State} (hs : WorkingSetValid s) :
    WorkingSetValid (startCommand s) := by
  rcases startCommand_cases s with ⟨c, d, h⟩ | ⟨-, hfault, h⟩ <;> rw [h]
  · exact hs
  · refine workingSetValid_dependsOn _ _ (fun p hp => examine_keeps _ p ?_) ?_
    · rw [List.mem_singleton.mp hp]
      decide
    · exact (firstBadParam_eq_none _).mp (firstBadParam_of_startFault hfault)

theorem refreshEnableCommand_workingSetValid (mask : BitVec 2) {s : State} (hs : WorkingSetValid s) :
    WorkingSetValid (refreshEnableCommand mask s) := by
  rcases refreshEnableCommand_cases mask s with ⟨i, h⟩ | ⟨hinterval, htime, h⟩ <;> rw [h]
  · exact hs
  · obtain ⟨_, _, h⟩ := forNamed_frame enableRank_frame mask (loadRefreshPair (takeCommand 10 mask s))
    rw [h]
    intro p
    cases p with
    | refreshInterval => exact ⟨hinterval, rfl⟩
    | refreshTime => exact ⟨htime, rfl⟩
    | _ => exact hs _

theorem workingSetValid_stable : Stable WorkingSetValid := by
  refine workingSetValid_dependsOn.stable (by decide) (fun {c} hc hwrites s hs => ?_) (fun {s} hs => ?_)
    (fun hs => hs)
  · cases c
    case powerOnReset => exact powerOn_valid
    case start => exact startCommand_workingSetValid hs
    case refreshEnable mask => exact refreshEnableCommand_workingSetValid mask hs
    all_goals cases hwrites
  · obtain ⟨-, -, htiming, -⟩ := takeOpportunity_keeps s
    intro p
    rw [htiming]
    exact hs p

/-- Settles O10: the working set is written by the reset, START and REFRESH_ENABLE alone. -/
theorem stepKeepsWorkingSetValid : Obligations.StepKeepsWorkingSetValid := fun _ _ =>
  workingSetValid_stable.step

/-! ## The seqs of the held descriptors -/

/-- The seqs held, the head's first. -/
def seqs (s : State) : List Seq := s.intake.queue.map Descriptor.seq

@[simp] theorem length_seqs (s : State) : (seqs s).length = s.intake.queue.length := List.length_map _

theorem seqs_modifyDescriptor {f : Descriptor → Descriptor} (hf : ∀ d, (f d).seq = d.seq) (q : Seq)
    (s : State) : seqs (modifyDescriptor q f s) = seqs s := by
  simp only [seqs, modifyDescriptor_intake, List.map_map]
  refine List.map_congr_left fun d _ => ?_
  simp only [Function.comp_apply]
  split
  · exact hf d
  · rfl

theorem seqs_eq_of_queue {s t : State} (h : t.intake.queue = s.intake.queue) : seqs t = seqs s := by
  rw [seqs, h, seqs]

theorem seqs_setLife (q : Seq) (l : Lifecycle) (s : State) : seqs (setLife q l s) = seqs s :=
  seqs_modifyDescriptor (f := fun d => { d with life := l }) (fun _ => rfl) q s

theorem seqs_completeAccess (q : Seq) (s : State) : seqs (completeAccess q s) = seqs s :=
  seqs_modifyDescriptor (f := fun d => d.completeAccess s.run.state) (fun _ => rfl) q s

theorem beginPause_queue (q : Seq) (n : BitVec 16) (h : PerRank Bool) (s : State) :
    (beginPause q n h s).intake.queue = s.intake.queue := by
  obtain ⟨_, _, _, e⟩ := beginPause_frame q n h s
  rw [e]

/-- A descriptor taken is EXPANDING, and no other changes. -/
theorem takeDescriptor_queue (d : Descriptor) (s : State) :
    (takeDescriptor d s).intake.queue = (setLife d.seq .expanding s).intake.queue := by
  unfold takeDescriptor
  cases d.work with
  | pause n h => exact beginPause_queue _ n h _
  | _ => rfl

theorem seqs_takeDescriptor (d : Descriptor) (s : State) : seqs (takeDescriptor d s) = seqs s :=
  (seqs_eq_of_queue (takeDescriptor_queue d s)).trans (seqs_setLife _ _ s)

theorem seqs_examineUpTo (n : Nat) (s : State) : seqs (examineUpTo n s) = seqs s := by
  induction n generalizing s with
  | zero => rfl
  | succ n ih =>
    unfold examineUpTo
    split
    · rfl
    · split
      · exact (ih _).trans (seqs_setLife _ _ s)
      · split
        · exact seqs_takeDescriptor _ s
        · rfl

theorem seqs_examine (s : State) : seqs (examine s) = seqs s := by
  unfold examine
  split
  · exact seqs_examineUpTo _ s
  · rfl

theorem seqs_fenceTake (s : State) : seqs (fenceTake s) = seqs s := by
  unfold fenceTake
  split
  · split
    · split
      · exact seqs_takeDescriptor _ s
      · rfl
    · rfl
  · rfl

theorem seqs_endPause (q : Seq) (cut : Bool) (s : State) : seqs (endPause q cut s) = seqs s :=
  seqs_modifyDescriptor (f := fun d => { d with life := .complete, cutShort := cut }) (fun _ => rfl) q s

theorem seqs_pauseExpiry (s : State) : seqs (pauseExpiry s) = seqs s := by
  unfold pauseExpiry
  split
  · split
    · exact (seqs_examine _).trans (seqs_endPause _ _ s)
    · rfl
  · rfl

theorem seqs_startCommand (s : State) : seqs (startCommand s) = seqs s := by
  rcases startCommand_cases s with ⟨_, _, h⟩ | ⟨-, -, h⟩ <;> rw [h]
  · rfl
  · exact seqs_examine _

theorem seqs_stopExpander (s : State) : seqs (stopExpander s) = seqs s := by
  unfold stopExpander
  split
  case h_4 => exact seqs_endPause _ _ s
  all_goals rfl

theorem seqs_stopCommand (s : State) : seqs (stopCommand s) = seqs s := by
  unfold stopCommand
  dsimp only
  split
  · exact seqs_stopExpander _
  · rfl
  · rfl

theorem seqs_resumeCommand (s : State) : seqs (resumeCommand s) = seqs s := by
  unfold resumeCommand
  dsimp only
  split
  · split
    · rfl
    · exact (seqs_examine _).trans (seqs_fenceTake _)
  · rfl

theorem seqs_accessPlacement (s : State) : seqs (accessPlacement s) = seqs s := by
  unfold accessPlacement
  split
  · split
    · split
      · unfold placeBurst
        dsimp only
        split
        · split
          · rfl
          · exact (seqs_examine _).trans (seqs_setLife _ _ _)
        · rfl
      · rfl
    · rfl
  · rfl

theorem seqs_sweepEnd (s : State) : seqs (sweepEnd s) = seqs s := by
  unfold sweepEnd
  split
  · split
    · refine (seqs_examine _).trans (seqs_modifyDescriptor ?_ _ _)
      exact fun _ => rfl
    · rfl
  · rfl

theorem seqs_writeDataPhaseEnd (s : State) : seqs (writeDataPhaseEnd s) = seqs s := by
  unfold writeDataPhaseEnd
  split
  · split
    · exact seqs_completeAccess _ _
    · rfl
  · rfl

theorem sweepResult_queue (q : Seq) (failed : Bool) (s : State) :
    (sweepResult q failed s).intake.queue = s.intake.queue := by
  obtain ⟨_, _, h⟩ := sweepResult_frame q failed s
  rw [h]

theorem windDownSweep_queue (s : State) : (windDownSweep s).intake.queue = s.intake.queue := by
  obtain ⟨_, _, h⟩ := windDownSweep_frame s
  rw [h]

theorem seqs_loseRead (s : State) (e : InFlight) : seqs (loseRead s e) = seqs s := by
  have hmod : seqs (modifyDescriptor e.seq
      (fun d => { d.completeAccess s.run.state with lost := satInc d.lost }) s) = seqs s :=
    seqs_modifyDescriptor
      (f := fun d => { d.completeAccess s.run.state with lost := satInc d.lost }) (fun _ => rfl) _ s
  unfold loseRead
  dsimp only
  split
  · exact (seqs_eq_of_queue (sweepResult_queue _ _ _)).trans hmod
  · exact hmod

theorem seqs_foldl_loseRead (l : List InFlight) (s : State) : seqs (l.foldl loseRead s) = seqs s := by
  induction l generalizing s with
  | nil => rfl
  | cons e l ih => exact (ih _).trans (seqs_loseRead s e)

theorem seqs_deadlineExpiry (s : State) : seqs (deadlineExpiry s) = seqs s := by
  unfold deadlineExpiry
  split
  · split
    · exact (seqs_eq_of_queue (windDownSweep_queue _)).trans (seqs_foldl_loseRead _ _)
    · rfl
  · rfl

theorem seqs_checkFailLimit (s : State) : seqs (checkFailLimit s) = seqs s := by
  unfold checkFailLimit
  split <;> rfl

theorem seqs_routeResult (e : InFlight) (r : CompareResult) (s : State) :
    seqs (routeResult e r s) = seqs s := by
  unfold routeResult
  split
  · unfold routeSweepRead
    split
    · exact seqs_eq_of_queue (sweepResult_queue _ _ s)
    · rfl
  · split
    · refine (seqs_checkFailLimit _).trans ?_
      exact seqs_modifyDescriptor (f := fun d => { d with miscompares := satInc d.miscompares })
        (fun _ => rfl) _ s
    · rfl

theorem seqs_takeArrival (x : Burst) (s : State) : seqs (takeArrival x s) = seqs s := by
  unfold takeArrival
  split
  · rfl
  · split
    · refine (seqs_eq_of_queue (windDownSweep_queue _)).trans ((seqs_routeResult _ _ _).trans ?_)
      exact seqs_completeAccess _ _
    · rfl

theorem seqs_takeOldestArrival (s : State) : seqs (takeOldestArrival s) = seqs s := by
  unfold takeOldestArrival
  split
  · exact seqs_takeArrival _ _
  · rfl

theorem seqs_dataArrival (s : State) : seqs (dataArrival s) = seqs s := by
  unfold dataArrival
  split
  · obtain ⟨_, _, h⟩ := finishAgedBurst_frame s
    exact (seqs_takeOldestArrival _).trans (by rw [h]; rfl)
  · exact seqs_takeOldestArrival s

theorem seqs_retirement (s : State) :
    seqs (retirement s) = seqs s ∨ seqs (retirement s) = (seqs s).tail := by
  unfold retirement
  split
  · next d rest h =>
    split
    · refine .inr ?_
      rw [show seqs s = d.seq :: rest.map Descriptor.seq by rw [seqs, h, List.map_cons], List.tail_cons, seqs,
        retireHead]
      dsimp only
      split <;> rfl
    · exact .inl rfl
  · exact .inl rfl

theorem seqs_abortEnd (s : State) : seqs (abortEnd s) = seqs s ∨ seqs (abortEnd s) = [] := by
  unfold abortEnd
  split
  · exact .inr rfl
  · exact .inl rfl

theorem abortExpander_queue (s : State) : (abortExpander s).intake.queue = s.intake.queue := by
  unfold abortExpander
  split
  · exact windDownSweep_queue _
  · rfl

theorem seqs_abortCommand (s : State) : seqs (abortCommand s) = seqs s ∨ seqs (abortCommand s) = [] := by
  unfold abortCommand
  dsimp only
  split
  · exact .inr rfl
  · exact .inl rfl
  · exact .inl (seqs_eq_of_queue (abortExpander_queue _))

/-- PUSH is refused, or accepted with room in the queue. -/
theorem pushCommand_cases (s : State) :
    (∃ c, pushCommand s = answer c 0 (takeCommand 1 0 s)) ∨
      (s.intake.queue.length < 32 ∧ ∃ w, pushCommand s = acceptPush w (takeCommand 1 0 s)) := by
  unfold pushCommand
  split
  · exact .inl ⟨_, rfl⟩
  · next w h =>
    refine .inr ⟨?_, w, rfl⟩
    by_contra hfull
    unfold checkPush at h
    split at h
    · cases h
    · rw [if_pos (show ¬ s.intake.queue.length < Config.queueCapacity from hfull)] at h
      cases h

/-- A PUSH accepted appends the next seq and raises the counter. -/
theorem seqs_acceptPush (w : Work) (s : State) :
    seqs (acceptPush w s) = seqs s ++ [s.intake.nextSeq] ∧
      (acceptPush w s).intake.nextSeq = s.intake.nextSeq + 1 := by
  unfold acceptPush
  refine ⟨(seqs_examine _).trans ?_, examine_keeps _ .nextSeq (by decide)⟩
  simp [seqs, newDescriptor]

/-- What a command makes of the held seqs and the next one: kept, the oldest retired, the next one appended,
or none left. -/
theorem after_seqs {c : Instr} (hc : Simple c = true) (s : State) :
    (seqs (after s c) = seqs s ∧ (after s c).intake.nextSeq = s.intake.nextSeq) ∨
    (seqs (after s c) = (seqs s).tail ∧ (after s c).intake.nextSeq = s.intake.nextSeq) ∨
    (s.intake.queue.length < 32 ∧ seqs (after s c) = seqs s ++ [s.intake.nextSeq] ∧
      (after s c).intake.nextSeq = s.intake.nextSeq + 1) ∨
    seqs (after s c) = [] := by
  cases hnext : (footprint c).contains Part.nextSeq with
  | true =>
    cases c
    case powerOnReset => exact .inr (.inr (.inr rfl))
    case softReset => exact .inr (.inr (.inr rfl))
    case push =>
      rcases pushCommand_cases s with ⟨_, h⟩ | ⟨hroom, w, h⟩ <;> rw [show after s .push = _ from h]
      · exact .inl ⟨rfl, rfl⟩
      · exact .inr (.inr (.inl ⟨hroom, seqs_acceptPush w _⟩))
    all_goals cases hnext
  | false =>
    have hkeep : (after s c).intake.nextSeq = s.intake.nextSeq :=
      after_keeps hc s .nextSeq (by simpa using hnext)
    cases hqueue : (footprint c).contains Part.queue with
    | false => exact .inl ⟨seqs_eq_of_queue (after_keeps hc s .queue (by simpa using hqueue)), hkeep⟩
    | true =>
      cases c
      case start => exact .inl ⟨seqs_startCommand s, hkeep⟩
      case stop => exact .inl ⟨seqs_stopCommand s, hkeep⟩
      case resume => exact .inl ⟨seqs_resumeCommand s, hkeep⟩
      case abort => exact (seqs_abortCommand s).imp (⟨·, hkeep⟩) fun h => .inr (.inr h)
      case pauseExpiry => exact .inl ⟨seqs_pauseExpiry s, hkeep⟩
      case fenceTake => exact .inl ⟨seqs_fenceTake s, hkeep⟩
      case deadlineExpiry => exact .inl ⟨seqs_deadlineExpiry s, hkeep⟩
      case dataArrival => exact .inl ⟨seqs_dataArrival s, hkeep⟩
      case writeDataPhaseEnd => exact .inl ⟨seqs_writeDataPhaseEnd s, hkeep⟩
      case accessPlacement => exact .inl ⟨seqs_accessPlacement s, hkeep⟩
      case sweepEnd => exact .inl ⟨seqs_sweepEnd s, hkeep⟩
      case retirement => exact (seqs_retirement s).imp (⟨·, hkeep⟩) fun h => .inl ⟨h, hkeep⟩
      case abortEnd => exact (seqs_abortEnd s).imp (⟨·, hkeep⟩) fun h => .inr (.inr h)
      case powerOnReset => cases hnext
      case softReset => cases hnext
      case push => cases hnext
      all_goals cases hqueue

/-- The issue of a command keeps the seqs. -/
theorem seqs_takeOpportunity (s : State) : seqs (takeOpportunity s) = seqs s := by
  have hissued (q : Seq) : seqs (countIssued q s) = seqs s :=
    seqs_modifyDescriptor (f := fun d => { d with issued := d.issued + 1 }) (fun _ => rfl) q s
  unfold takeOpportunity
  split
  · next n c _ =>
    cases c with
    | read a =>
      refine (seqs_eq_of_queue (s := issueRead a s) rfl).trans ?_
      rw [issueRead_eq]
      exact hissued a.seq
    | write a =>
      refine (seqs_eq_of_queue (s := issueWrite a s) rfl).trans ?_
      rw [issueWrite_eq]
      exact hissued a.seq
    | _ => rfl
  · rfl

/-! ## The seqs are an unbroken run (R15) -/

/-- Seqs that rise by one, the last of them one before `next`. -/
def RunTo (next : Seq) (l : List Seq) : Prop :=
  ∀ i (h : i < l.length), l[i] + BitVec.ofNat 8 (l.length - i) = next

theorem seqsConsecutive_iff (s : State) : SeqsConsecutive s ↔ RunTo s.intake.nextSeq (seqs s) := by
  simp [SeqsConsecutive, RunTo, seqs]

theorem runTo_nil (next : Seq) : RunTo next [] := fun _ h => absurd h (Nat.not_lt_zero _)

theorem RunTo.tail {next : Seq} {l : List Seq} (h : RunTo next l) : RunTo next l.tail := by
  cases l with
  | nil => exact h
  | cons q l =>
    intro i hi
    have := h (i + 1) (Nat.succ_lt_succ hi)
    simpa using this

theorem RunTo.append {next : Seq} {l : List Seq} (h : RunTo next l) : RunTo (next + 1) (l ++ [next]) := by
  intro i hi
  have hlen : (l ++ [next]).length = l.length + 1 := List.length_append
  by_cases hil : i < l.length
  · have hsub : (l ++ [next]).length - i = (l.length - i) + 1 := by omega
    rw [List.getElem_append_left hil, hsub, BitVec.ofNat_add, ← BitVec.add_assoc, h i hil]
    rfl
  · have hieq : i = l.length := by omega
    subst hieq
    rw [List.getElem_concat_length rfl, hlen, Nat.add_sub_cancel_left]
    rfl

theorem seqsConsecutive_of_same {s t : State} (hseqs : seqs t = seqs s)
    (hnext : t.intake.nextSeq = s.intake.nextSeq) (hs : SeqsConsecutive s) : SeqsConsecutive t := by
  rw [seqsConsecutive_iff] at hs ⊢
  rwa [hseqs, hnext]

theorem seqsConsecutive_stable : Stable SeqsConsecutive where
  pending _ := seqsConsecutive_of_same rfl rfl
  host _ := seqsConsecutive_of_same rfl rfl
  opportunity {s} := by
    obtain ⟨-, -, -, -, -, hnext, -⟩ := takeOpportunity_keeps s
    exact seqsConsecutive_of_same (seqs_takeOpportunity s) hnext
  tclk := seqsConsecutive_of_same rfl rfl
  command {c} hc s hs := by
    rw [seqsConsecutive_iff] at hs ⊢
    rcases after_seqs hc s with ⟨hseqs, hnext⟩ | ⟨hseqs, hnext⟩ | ⟨-, hseqs, hnext⟩ | hseqs
    · rwa [hseqs, hnext]
    · rw [hseqs, hnext]
      exact hs.tail
    · rw [hseqs, hnext]
      exact hs.append
    · rw [hseqs]
      exact runTo_nil _

/-! ## The fail records have distinct keys (R141) -/

theorem keysDistinct_dependsOn : DependsOn [.records] KeysDistinct := by
  intro s t h hs
  have hrecords : t.failLog.records = s.failLog.records := h .records (by decide)
  rwa [KeysDistinct, hrecords]

/-- A merge keeps every key. -/
theorem map_key_mergeOffer (o : Offer) (s : State) :
    (mergeOffer o s).failLog.records.map FailRecord.key = s.failLog.records.map FailRecord.key := by
  simp only [mergeOffer, List.map_map]
  refine List.map_congr_left fun r _ => ?_
  simp only [Function.comp_apply]
  split <;> rfl

theorem takeOffer_keysDistinct (o : Offer) {s : State} (hs : KeysDistinct s) :
    KeysDistinct (takeOffer o s) := by
  unfold takeOffer
  split
  · rw [KeysDistinct, map_key_mergeOffer]
    exact hs
  · next hnew =>
    split
    · have hkey : o.key ∉ s.failLog.records.map FailRecord.key := by
        rw [Bool.not_eq_true, holdsKey_eq_false_iff] at hnew
        simpa using hnew
      simpa [KeysDistinct, appendOffer, Offer.newRecord, List.nodup_append] using ⟨hs, by simpa using hkey⟩
    · exact hs

theorem keysDistinct_stable : Stable KeysDistinct := by
  refine keysDistinct_dependsOn.stable (by decide) (fun {c} hc hwrites s hs => ?_) (fun {s} hs => ?_)
    (fun hs => hs)
  · cases c
    case powerOnReset => exact List.nodup_nil
    case failClear => exact List.nodup_nil
    case failReleaseOldest =>
      change KeysDistinct (failReleaseCommand s)
      cases h : s.failLog.records with
      | nil =>
        rw [failReleaseCommand_nil h]
        exact hs
      | cons r rest =>
        rw [failReleaseCommand_cons h]
        rw [KeysDistinct, h] at hs
        exact hs.of_cons
    case failOffer =>
      change KeysDistinct (failOffer s)
      unfold failOffer
      split
      · exact takeOffer_keysDistinct _ hs
      · exact hs
    all_goals cases hwrites
  · obtain ⟨-, -, -, -, hlog, -⟩ := takeOpportunity_keeps s
    rwa [KeysDistinct, hlog]

/-- Settles O5: the fail log changes by offers, releases and clears alone, and the seqs as `after_seqs`
says. -/
theorem stepKeepsKeysAndSeqs : Obligations.StepKeepsKeysAndSeqs :=
  ⟨fun _ _ => keysDistinct_stable.step, fun _ _ => seqsConsecutive_stable.step⟩

end Sys2Proof.Machine
end

/-!
Quiet in IDLE, the read balance and the taps. With the expander IDLE and the lists empty no event of the
expander or of the reads does anything; an access issues from the window alone; and only an arrival, a
deadline and the issue of a READ move the read counts, each with the in-flight list.
-/
section

namespace Sys2Proof.Machine

/-! ## Chosen accesses stand in the window (R84) -/

theorem mem_headsFrom (a : Access) (seen : List BankAddr) (l : List Access) :
    a ∈ headsFrom seen l ↔ ∃ ahead behind, l = ahead ++ a :: behind ∧ a.addr.bank ∉ seen ∧
      ∀ x ∈ ahead, x.addr.bank ≠ a.addr.bank := by
  induction l generalizing seen with
  | nil => simp [headsFrom]
  | cons x l ih =>
    unfold headsFrom
    split
    · next hx =>
      rw [ih]
      constructor
      · rintro ⟨ahead, behind, rfl, hseen, hne⟩
        refine ⟨x :: ahead, behind, rfl, hseen, fun y hy => ?_⟩
        rcases List.mem_cons.mp hy with rfl | hy
        · exact fun e => hseen (e ▸ hx)
        · exact hne y hy
      · rintro ⟨ahead, behind, hl, hseen, hne⟩
        cases ahead with
        | nil =>
          obtain ⟨rfl, rfl⟩ := List.cons.inj hl
          exact absurd hx hseen
        | cons y ahead =>
          obtain ⟨rfl, rfl⟩ := List.cons.inj hl
          exact ⟨ahead, behind, rfl, hseen, fun z hz => hne z (List.mem_cons_of_mem _ hz)⟩
    · next hx =>
      rw [List.mem_cons, ih]
      constructor
      · rintro (rfl | ⟨ahead, behind, rfl, hseen, hne⟩)
        · exact ⟨[], l, rfl, hx, fun _ h => absurd h List.not_mem_nil⟩
        · rw [List.mem_cons, not_or] at hseen
          refine ⟨x :: ahead, behind, rfl, hseen.2, fun y hy => ?_⟩
          rcases List.mem_cons.mp hy with rfl | hy
          · exact Ne.symm hseen.1
          · exact hne y hy
      · rintro ⟨ahead, behind, hl, hseen, hne⟩
        cases ahead with
        | nil => exact .inl (List.cons.inj hl).1.symm
        | cons y ahead =>
          obtain ⟨rfl, rfl⟩ := List.cons.inj hl
          refine .inr ⟨ahead, behind, rfl, ?_, fun z hz => hne z (List.mem_cons_of_mem _ hz)⟩
          rw [List.mem_cons, not_or]
          exact ⟨(hne _ List.mem_cons_self).symm, hseen⟩

/-- The next command of an access that is an access is itself. -/
theorem nextCommand_access {s : State} {x a : Access}
    (h : nextCommand s x = some (.read a) ∨ nextCommand s x = some (.write a)) : x = a := by
  have key : ∀ c, nextCommand s x = some c → c = .read a ∨ c = .write a → x = a := by
    intro c hc hca
    rw [nextCommand_eq_some] at hc
    rcases hc with ⟨-, rfl⟩ | ⟨-, -, rfl⟩ | ⟨-, row, -, ⟨-, rfl⟩ | ⟨-, rfl⟩⟩
    · simp at hca
    · simp at hca
    · cases hop : x.op <;> simpa [hop] using hca
    · simp at hca
  rcases h with h | h
  · exact key _ h (.inl rfl)
  · exact key _ h (.inr rfl)

theorem refreshWork_access (s : State) (r : Rank) (a : Access) :
    refreshWork s r ≠ some (.read a) ∧ refreshWork s r ≠ some (.write a) := by
  constructor <;> intro h <;> rw [refreshWork_eq_some] at h <;>
    rcases h with ⟨-, ⟨-, h⟩ | ⟨-, h⟩⟩ <;> cases h

theorem mem_headCommands {s : State} {c : ArrayCommand} (h : c ∈ headCommands s) :
    ∃ a ∈ headAccesses s, nextCommand s a = some c := by
  obtain ⟨a, ha, hc⟩ := List.mem_filterMap.mp h
  exact ⟨a, (List.mem_filter.mp ha).1, hc⟩

/-- An access offered by a rung is a head access. -/
theorem mem_headAccesses_of_rung {s : State} {n : Nat} {a : Access}
    (h : .read a ∈ rung s n ∨ .write a ∈ rung s n) : a ∈ headAccesses s := by
  have key : ∀ c, c = .read a ∨ c = .write a → c ∈ rung s n → a ∈ headAccesses s := by
    intro c hca hc
    have hclosing (r : Rank) : ¬ (ArrayCommand.closeRank r = .read a ∨ ArrayCommand.closeRank r = .write a) := by
      simp
    have hclose (b : BankAddr) : ¬ (ArrayCommand.close b = .read a ∨ ArrayCommand.close b = .write a) := by
      simp
    have hwork (r : Rank) : refreshWork s r ≠ some c := by
      rcases hca with rfl | rfl
      · exact (refreshWork_access s r a).1
      · exact (refreshWork_access s r a).2
    have hhead (x : Access) (hx : x ∈ headAccesses s) (hn : nextCommand s x = some c) :
        a ∈ headAccesses s := by
      have hxa : x = a := nextCommand_access <| by
        rcases hca with rfl | rfl
        · exact .inl hn
        · exact .inr hn
      exact hxa ▸ hx
    have hheads (hm : c ∈ headCommands s) : a ∈ headAccesses s := by
      obtain ⟨x, hx, hn⟩ := mem_headCommands hm
      exact hhead x hx hn
    unfold rung at hc
    split at hc
    · obtain ⟨r, -, rfl⟩ := List.mem_map.mp hc
      exact absurd hca (hclosing r)
    · obtain ⟨r, -, hr⟩ := List.mem_filterMap.mp hc
      exact absurd hr (hwork r)
    · obtain ⟨x, hx, hn⟩ := List.mem_filterMap.mp hc
      exact hhead x (List.mem_filter.mp hx).1 hn
    · obtain ⟨b, -, rfl⟩ := List.mem_map.mp hc
      exact absurd hca (hclose b)
    · exact hheads (List.mem_filter.mp hc).1
    · exact hheads (List.mem_filter.mp hc).1
    · exact hheads (List.mem_filter.mp hc).1
    · obtain ⟨r, -, hr⟩ := List.mem_filterMap.mp hc
      exact absurd hr (hwork r)
    · obtain ⟨b, -, rfl⟩ := List.mem_map.mp hc
      exact absurd hca (hclose b)
    · exact absurd hc List.not_mem_nil
  rcases h with h | h
  · exact key _ (.inl rfl) h
  · exact key _ (.inr rfl) h

/-- A chosen access is the oldest of the window for its bank. -/
theorem choose_access_head {s : State} {n : Nat} {a : Access}
    (h : choose s = some (n, .read a) ∨ choose s = some (n, .write a)) :
    ∃ ahead behind, s.window = ahead ++ a :: behind ∧ ∀ x ∈ ahead, x.addr.bank ≠ a.addr.bank := by
  have hmem : a ∈ headAccesses s := mem_headAccesses_of_rung (n := n) <| by
    rcases h with h | h
    · obtain ⟨-, -, hr, -⟩ := choose_some h
      exact .inl hr
    · obtain ⟨-, -, hr, -⟩ := choose_some h
      exact .inr hr
  obtain ⟨ahead, behind, hw, -, hne⟩ := (mem_headsFrom a [] s.window).mp hmem
  exact ⟨ahead, behind, hw, hne⟩

theorem mem_window_of_choose {s : State} {n : Nat} {a : Access}
    (h : choose s = some (n, .read a) ∨ choose s = some (n, .write a)) : a ∈ s.window := by
  obtain ⟨ahead, behind, hw, -⟩ := choose_access_head h
  rw [hw]
  exact List.mem_append_right _ List.mem_cons_self

/-! ## What the issue of each command leaves as it was -/

theorem issueOpen_keepsParts (b : BankAddr) (row : Nat) (s : State) :
    Keeps [.banks, .ranks, .holds, .pendingClose, .lastRung] s (issueOpen b row s) := by
  intro p hp
  cases p <;> first | exact absurd (by decide) hp | rfl

theorem issueClose_keepsParts (b : BankAddr) (s : State) :
    Keeps [.banks, .ranks, .holds, .pendingClose, .lastRung] s (issueClose b s) := by
  intro p hp
  cases p <;> first | exact absurd (by decide) hp | rfl

theorem issueCloseRank_keepsParts (r : Rank) (s : State) :
    Keeps [.banks, .ranks, .holds, .pendingClose, .lastRung] s (issueCloseRank r s) := by
  intro p hp
  cases p <;> first | exact absurd (by decide) hp | rfl

theorem issueRefresh_keepsParts (r : Rank) (s : State) :
    Keeps [.banks, .ranks, .holds, .pendingClose, .lastRung] s (issueRefresh r s) := by
  intro p hp
  cases p <;> first | exact absurd (by decide) hp | rfl

theorem recordRung_driveBus_keepsParts (n : Nat) (b : CommandBus) (s : State) :
    Keeps [.banks, .ranks, .holds, .pendingClose, .lastRung] s (recordRung n (driveBus b s)) := by
  intro p hp
  cases p <;> first | exact absurd (by decide) hp | rfl

theorem Keeps.trans {ps : List Part} {s t u : State} (h : Keeps ps s t) (k : Keeps ps t u) :
    Keeps ps s u := by
  intro p hp
  have h := h p hp
  have k := k p hp
  cases p <;> exact Eq.trans k h

/-- The issue of a command that is no access writes banks, ranks, holds and the pending close order. -/
theorem issue_keepsParts {c : ArrayCommand} (hc : c.isAccess = false) (n : Nat) (s : State) :
    Keeps [.banks, .ranks, .holds, .pendingClose, .lastRung] s (issue n c s) := by
  refine Keeps.trans ?_ (recordRung_driveBus_keepsParts n c.encoding (issueEffects c s))
  cases c with
  | openRow b row => exact issueOpen_keepsParts b row s
  | close b => exact issueClose_keepsParts b s
  | closeRank r => exact issueCloseRank_keepsParts r s
  | refresh r => exact issueRefresh_keepsParts r s
  | read a => cases hc
  | write a => cases hc

theorem issueRead_keepsParts (n : Nat) (a : Access) (s : State) :
    Keeps [.window, .queue, .banks, .holds, .inFlight, .pendingClose, .lastRung, .readStats] s
      (issue n (.read a) s) := by
  change Keeps _ s (recordRung n (driveBus _ (issueRead a s)))
  rw [issueRead_eq]
  intro p hp
  cases p <;> first | exact absurd (by decide) hp | rfl

theorem issueWrite_keepsParts (n : Nat) (a : Access) (s : State) :
    Keeps [.window, .queue, .banks, .holds, .writePhases, .pendingClose, .lastRung] s
      (issue n (.write a) s) := by
  change Keeps _ s (recordRung n (driveBus _ (issueWrite a s)))
  rw [issueWrite_eq]
  intro p hp
  cases p <;> first | exact absurd (by decide) hp | rfl

/-- The opportunity issues a command that is no access, a READ, a WRITE, or nothing. -/
theorem takeOpportunity_cases (s : State) :
    (∃ n c, choose s = some (n, c) ∧ c.isAccess = false ∧ takeOpportunity s = issue n c s) ∨
    (∃ n a, choose s = some (n, .read a) ∧ takeOpportunity s = issue n (.read a) s) ∨
    (∃ n a, choose s = some (n, .write a) ∧ takeOpportunity s = issue n (.write a) s) ∨
    (choose s = none ∧ takeOpportunity s = driveBus .noCommand s) := by
  cases h : choose s with
  | none => exact .inr (.inr (.inr ⟨rfl, by rw [takeOpportunity, h]⟩))
  | some p =>
    obtain ⟨n, c⟩ := p
    have hissue : takeOpportunity s = issue n c s := takeOpportunity_some h
    cases c with
    | read a => exact .inr (.inl ⟨n, a, rfl, hissue⟩)
    | write a => exact .inr (.inr (.inl ⟨n, a, rfl, hissue⟩))
    | _ => exact .inl ⟨n, _, rfl, rfl, hissue⟩

/-- With an empty window the opportunity writes no part but those of the bank commands. -/
theorem takeOpportunity_keeps_of_window_nil {s : State} (h : s.window = []) :
    Keeps [.banks, .ranks, .holds, .pendingClose, .lastRung] s (takeOpportunity s) := by
  rcases takeOpportunity_cases s with ⟨n, c, -, hc, e⟩ | ⟨n, a, hch, -⟩ | ⟨n, a, hch, -⟩ | ⟨-, e⟩
  · rw [e]
    exact issue_keepsParts hc n s
  · have := mem_window_of_choose (.inl hch)
    rw [h] at this
    exact absurd this List.not_mem_nil
  · have := mem_window_of_choose (.inr hch)
    rw [h] at this
    exact absurd this List.not_mem_nil
  · rw [e]
    intro p _
    cases p <;> rfl

/-! ## Events that find nothing to do -/

section Idle

variable {s : State} (h : s.expander = .idle)

include h

theorem fenceTake_of_idle : fenceTake s = s := by rw [fenceTake, h]

theorem pauseExpiry_of_idle : pauseExpiry s = s := by rw [pauseExpiry, h]

theorem sweepTapSet_of_idle : sweepTapSet s = s := by rw [sweepTapSet, h]

theorem sweepEnd_of_idle : sweepEnd s = s := by rw [sweepEnd, h]

end Idle

theorem deadlineExpiry_of_nil {s : State} (h : s.reads.inFlight = []) : deadlineExpiry s = s := by
  rw [deadlineExpiry, h]

theorem writeDataPhaseEnd_of_nil {s : State} (h : s.reads.writePhases = []) : writeDataPhaseEnd s = s := by
  rw [writeDataPhaseEnd, h]

theorem examine_of_not_running {s : State} (h : s.run.state ≠ .running) : examine s = s := by
  rw [examine, if_neg]
  simp [h]

/-- With no read in flight an arrival is discarded or stray. -/
theorem takeArrival_keeps_of_nil (x : Burst) {s : State} (h : s.reads.inFlight = []) :
    Keeps [] s (takeArrival x s) := by
  unfold takeArrival
  rw [h]
  split <;> intro p _ <;> cases p <;> rfl

theorem takeOldestArrival_keeps_of_nil {s : State} (h : s.reads.inFlight = []) :
    Keeps [] s (takeOldestArrival s) := by
  unfold takeOldestArrival
  split
  · next b rest _ =>
    refine Keeps.trans (fun p _ => ?_) (takeArrival_keeps_of_nil b (s := { s with capture.arrivals := rest }) h)
    cases p <;> rfl
  · exact Keeps.refl _ s

theorem finishAgedBurst_keeps (s : State) : Keeps [] s (finishAgedBurst s) := by
  obtain ⟨_, _, h⟩ := finishAgedBurst_frame s
  rw [h]
  intro p _
  cases p <;> rfl

theorem dataArrival_keeps_of_nil {s : State} (h : s.reads.inFlight = []) : Keeps [] s (dataArrival s) := by
  unfold dataArrival
  split
  · have hburst := finishAgedBurst_keeps s
    refine hburst.trans (takeOldestArrival_keeps_of_nil ?_)
    rw [show (finishAgedBurst s).reads.inFlight = s.reads.inFlight from hburst .inFlight List.not_mem_nil, h]
  · exact takeOldestArrival_keeps_of_nil h

/-! ## Quiet in IDLE (R152, R42) -/

/-- The lists are empty, the expander is IDLE and every held descriptor is WAITING. -/
structure Quiet (s : State) : Prop where
  window : s.window = []
  inFlight : s.reads.inFlight = []
  writePhases : s.reads.writePhases = []
  expander : s.expander = .idle
  waiting : ∀ d ∈ s.intake.queue, d.life = .waiting

theorem quietWhenIdle_iff (s : State) :
    QuietWhenIdle s ↔
      (s.run.state = .idle → Quiet s) ∧ (s.run.state = .aborting → s.window = []) := by
  refine and_congr_left fun _ => forall_congr' fun _ => ?_
  exact ⟨fun ⟨hw, hr, hp, he, hq⟩ => ⟨hw, hr, hp, he, hq⟩, fun ⟨hw, hr, hp, he, hq⟩ => ⟨hw, hr, hp, he, hq⟩⟩

/-- The parts that quiet speaks of. -/
def quietParts : List Part := [.runState, .window, .inFlight, .writePhases, .expander, .queue]

theorem Quiet.of_same {s t : State} (h : ∀ p ∈ quietParts, p.Same s t) (hs : Quiet s) : Quiet t where
  window := (h .window (by decide)).trans hs.window
  inFlight := (h .inFlight (by decide)).trans hs.inFlight
  writePhases := (h .writePhases (by decide)).trans hs.writePhases
  expander := (h .expander (by decide)).trans hs.expander
  waiting := by
    rw [show t.intake.queue = s.intake.queue from h .queue (by decide)]
    exact hs.waiting

theorem quietWhenIdle_dependsOn : DependsOn quietParts QuietWhenIdle := by
  intro s t h hs
  have hstate : t.run.state = s.run.state := h .runState (by decide)
  have hwindow : t.window = s.window := h .window (by decide)
  rw [quietWhenIdle_iff] at hs ⊢
  rw [hstate, hwindow]
  exact ⟨fun hidle => (hs.1 hidle).of_same h, hs.2⟩

/-- A command that keeps the run state and the window keeps the law when it is quiet in IDLE. -/
theorem quietWhenIdle_of_state {s t : State} (hstate : t.run.state = s.run.state)
    (hwindow : t.window = s.window) (hidle : s.run.state = .idle → Quiet s → Quiet t)
    (hs : QuietWhenIdle s) : QuietWhenIdle t := by
  rw [quietWhenIdle_iff] at hs ⊢
  rw [hstate, hwindow]
  exact ⟨fun h => hidle h (hs.1 h), hs.2⟩

/-- In a run state that is neither IDLE nor ABORTING the law asks nothing. -/
theorem quietWhenIdle_of_busy {s : State} (hidle : s.run.state ≠ .idle)
    (haborting : s.run.state ≠ .aborting) : QuietWhenIdle s :=
  ⟨fun h => absurd h hidle, fun h => absurd h haborting⟩

theorem works_iff (st : RunState) : st.works = true ↔ st = .running ∨ st = .draining := by
  cases st <;> simp [RunState.works]

theorem pushCommand_quiet {s : State} (hidle : s.run.state = .idle) (hs : Quiet s) :
    Quiet (pushCommand s) := by
  rcases pushCommand_cases s with ⟨c, h⟩ | ⟨-, w, h⟩ <;> rw [h]
  · exact ⟨hs.window, hs.inFlight, hs.writePhases, hs.expander, hs.waiting⟩
  · rw [acceptPush, examine_of_not_running (by simp [hidle])]
    refine ⟨hs.window, hs.inFlight, hs.writePhases, hs.expander, fun d hd => ?_⟩
    rcases List.mem_append.mp hd with hd | hd
    · exact hs.waiting d hd
    · rw [List.mem_singleton.mp hd]
      rfl

theorem startCommand_quietWhenIdle {s : State} (hs : QuietWhenIdle s) : QuietWhenIdle (startCommand s) := by
  rcases startCommand_cases s with ⟨c, d, h⟩ | ⟨-, -, h⟩ <;> rw [h]
  · exact hs
  · have hrun : (examine (enterRunning (takeCommand 2 0 s))).run.state = .running :=
      examine_keeps _ .runState (by decide)
    exact quietWhenIdle_of_busy (by rw [hrun]; decide) (by rw [hrun]; decide)

theorem stopExpander_runState (s : State) : (stopExpander s).run.state = s.run.state := by
  unfold stopExpander
  split <;> rfl

theorem stopCommand_quietWhenIdle {s : State} (hs : QuietWhenIdle s) : QuietWhenIdle (stopCommand s) := by
  unfold stopCommand
  dsimp only
  split
  · have hrun : (answer .accepted 0
        (stopExpander { takeCommand 3 0 s with run.state := .draining })).run.state = .draining :=
      stopExpander_runState _
    exact quietWhenIdle_of_busy (by rw [hrun]; decide) (by rw [hrun]; decide)
  · exact hs
  · exact hs

theorem fenceTake_runState (s : State) : (fenceTake s).run.state = s.run.state :=
  fenceTake_keeps s .runState (by decide)

theorem resumeExpander_runState (s : State) : (resumeExpander s).run.state = s.run.state :=
  (examine_keeps _ .runState (by decide)).trans (fenceTake_runState s)

theorem resumeCommand_quietWhenIdle {s : State} (hs : QuietWhenIdle s) :
    QuietWhenIdle (resumeCommand s) := by
  unfold resumeCommand
  dsimp only
  split
  · split
    · exact quietWhenIdle_of_busy (fun h => by cases h) (fun h => by cases h)
    · have hrun : (answer .accepted 0
          (resumeExpander { takeCommand 4 0 s with run.state := .running })).run.state = .running :=
        resumeExpander_runState _
      exact quietWhenIdle_of_busy (by rw [hrun]; decide) (by rw [hrun]; decide)
  · exact hs

theorem windDownSweep_keeps (s : State) : Keeps [.expander, .taps] s (windDownSweep s) := by
  obtain ⟨_, _, h⟩ := windDownSweep_frame s
  rw [h]
  intro p hp
  cases p <;> first | exact absurd (by decide) hp | rfl

theorem abortExpander_keeps (s : State) : Keeps [.expander, .taps] s (abortExpander s) := by
  unfold abortExpander
  split
  · refine Keeps.trans (fun p hp => ?_) (windDownSweep_keeps _)
    cases p <;> first | exact absurd (by decide) hp | rfl
  · intro p hp
    cases p <;> first | exact absurd (by decide) hp | rfl

theorem abortCommand_quietWhenIdle {s : State} (hs : QuietWhenIdle s) :
    QuietWhenIdle (abortCommand s) := by
  unfold abortCommand
  dsimp only
  split
  · next hidle =>
    obtain ⟨hw, hr, hp, he, -⟩ := hs.1 hidle
    exact ⟨fun _ => ⟨hw, hr, hp, he, fun d hd => absurd hd List.not_mem_nil⟩, fun _ => hw⟩
  · exact hs
  · have hrun : (answer .accepted 0 (enterAborting (takeCommand 5 0 s))).run.state = .aborting :=
      abortExpander_keeps _ .runState (by decide)
    have hwin : (answer .accepted 0 (enterAborting (takeCommand 5 0 s))).window = [] :=
      abortExpander_keeps _ .window (by decide)
    exact ⟨fun h => absurd (hrun.symm.trans h) (by decide), fun _ => hwin⟩

/-- A halt is taken in RUNNING and DRAINING; a request taken elsewhere changes no part. -/
theorem takeHalt_cases (c : HaltCause) (s : State) :
    (takeHalt c s).run.state = .halted ∨ takeHalt c s = s := by
  unfold takeHalt
  split
  · exact .inl rfl
  · exact .inl rfl
  · exact .inr rfl

theorem haltRequest_quietWhenIdle (c : HaltCause) {s : State} (hs : QuietWhenIdle s) :
    QuietWhenIdle (haltRequest c s) := by
  unfold haltRequest
  split
  · rcases takeHalt_cases c { s with messages.haltRequests := dropFirst c s.messages.haltRequests } with h | h
    · exact quietWhenIdle_of_busy (by rw [h]; decide) (by rw [h]; decide)
    · rw [h]
      exact hs
  · exact hs

/-- What DRAIN_END asks, as a proposition (R161). -/
theorem drained_iff (s : State) :
    drained s = true ↔ s.expander = .idle ∧ (∀ d ∈ s.intake.queue, d.life = .waiting) ∧ s.window = [] ∧
      s.reads.inFlight = [] ∧ s.reads.writePhases = [] ∧ s.arbiter.pendingClose = [] := by
  have hidle : s.expander.isIdle = true ↔ s.expander = .idle := by
    cases s.expander <;> simp [Expander.isIdle]
  simp only [drained, Bool.and_eq_true, hidle, List.all_eq_true, beq_iff_eq, List.isEmpty_iff, and_assoc]

theorem drainEnd_quietWhenIdle {s : State} (hs : QuietWhenIdle s) : QuietWhenIdle (drainEnd s) := by
  unfold drainEnd
  split
  · next h =>
    obtain ⟨-, hdrained⟩ := h
    obtain ⟨he, hq, hw, hr, hp, -⟩ := (drained_iff s).mp hdrained
    exact ⟨fun _ => ⟨hw, hr, hp, he, hq⟩, fun _ => hw⟩
  · exact hs

/-- What ABORT_END asks, as a proposition (R162). -/
theorem abortFinished_iff (s : State) :
    abortFinished s = true ↔ s.expander = .idle ∧ s.reads.inFlight = [] ∧ s.reads.writePhases = [] ∧
      ∀ b : BankAddr, isPresent s b.rank = true → (bankAt s b).state = .closed := by
  have hidle : s.expander.isIdle = true ↔ s.expander = .idle := by
    cases s.expander <;> simp [Expander.isIdle]
  simp only [abortFinished, rankAllClosed, Bool.and_eq_true, hidle, List.all_eq_true, List.isEmpty_iff,
    mem_presentRanks, mem_rankBankRecords, beq_iff_eq, and_assoc]
  refine and_congr_right fun _ => and_congr_right fun _ => and_congr_right fun _ => ?_
  exact ⟨fun h b hb => h b.rank hb _ ⟨b, rfl, rfl⟩, fun h r hr k ⟨b, hb, hk⟩ => hk ▸ h b (hb ▸ hr)⟩

theorem abortEnd_quietWhenIdle {s : State} (hs : QuietWhenIdle s) : QuietWhenIdle (abortEnd s) := by
  unfold abortEnd
  split
  · next h =>
    obtain ⟨haborting, hfinished⟩ := h
    obtain ⟨he, hr, hp, -⟩ := (abortFinished_iff s).mp hfinished
    have hw := hs.2 haborting
    exact ⟨fun _ => ⟨hw, hr, hp, he, fun d hd => absurd hd List.not_mem_nil⟩, fun _ => hw⟩
  · exact hs

theorem retirement_of_waiting {s : State} (h : ∀ d ∈ s.intake.queue, d.life = .waiting) :
    retirement s = s := by
  unfold retirement
  split
  · next d rest hq =>
    have hd : d.life = .waiting := h d (by rw [hq]; exact List.mem_cons_self)
    rw [if_neg (by simp [hd])]
  · rfl

/-- A placement that is not a no-op happens in RUNNING or DRAINING. -/
theorem accessPlacement_quietWhenIdle {s : State} (hs : QuietWhenIdle s) :
    QuietWhenIdle (accessPlacement s) := by
  by_cases hworks : s.run.state.works = true
  · have hrun : (accessPlacement s).run.state = s.run.state := accessPlacement_keeps s .runState (by decide)
    rw [← hrun, works_iff] at hworks
    exact quietWhenIdle_of_busy (by rcases hworks with h | h <;> rw [h] <;> decide)
      (by rcases hworks with h | h <;> rw [h] <;> decide)
  · have hnone : accessPlacement s = s := by
      unfold accessPlacement
      split
      · rw [if_neg hworks]
      · rfl
    rwa [hnone]

theorem sweepReadPlacement_quietWhenIdle {s : State} (hs : QuietWhenIdle s) :
    QuietWhenIdle (sweepReadPlacement s) := by
  by_cases hworks : s.run.state.works = true
  · have hrun : (sweepReadPlacement s).run.state = s.run.state :=
      sweepReadPlacement_keeps s .runState (by decide)
    rw [← hrun, works_iff] at hworks
    exact quietWhenIdle_of_busy (by rcases hworks with h | h <;> rw [h] <;> decide)
      (by rcases hworks with h | h <;> rw [h] <;> decide)
  · have hnone : sweepReadPlacement s = s := by
      unfold sweepReadPlacement
      split
      · rw [if_neg fun h => hworks h.1]
      · rfl
    rwa [hnone]

theorem quietWhenIdle_stable : Stable QuietWhenIdle := by
  refine quietWhenIdle_dependsOn.stable (by decide) (fun {c} hc hwrites s hs => ?command)
    (fun {s} hs => ?opportunity) (fun {s} hs => ?tclk)
  case opportunity =>
    rw [quietWhenIdle_iff] at hs ⊢
    obtain ⟨-, -, -, -, -, -, -, -, -, -, hstate, -⟩ := takeOpportunity_keeps s
    rw [hstate]
    have hkeeps (hw : s.window = []) {p : Part} (hp : p ∈ quietParts) : p.Same s (takeOpportunity s) :=
      takeOpportunity_keeps_of_window_nil hw p (by revert hp; cases p <;> decide)
    exact ⟨fun h => (hs.1 h).of_same fun _ => hkeeps (hs.1 h).window,
      fun h => (hkeeps (hs.2 h) (p := .window) (by decide)).trans (hs.2 h)⟩
  case tclk =>
    rw [quietWhenIdle_iff] at hs ⊢
    refine ⟨fun h => ?_, hs.2⟩
    obtain ⟨hw, hr, hp, he, hq⟩ := hs.1 h
    exact ⟨hw, by rw [passTclk, hr]; rfl, by rw [passTclk, hp]; rfl, by rw [passTclk, he]; rfl, hq⟩
  case command =>
    have hkeep (hstate : Part.runState ∉ footprint c) (hwindow : Part.window ∉ footprint c)
        (hidle : s.run.state = .idle → Quiet s → Quiet (after s c)) : QuietWhenIdle (after s c) :=
      quietWhenIdle_of_state (after_keeps hc s .runState hstate) (after_keeps hc s .window hwindow) hidle hs
    have hnoop (hstate : Part.runState ∉ footprint c) (hwindow : Part.window ∉ footprint c)
        (hsame : Quiet s → after s c = s) : QuietWhenIdle (after s c) :=
      hkeep hstate hwindow fun _ hq => (hsame hq).symm ▸ hq
    cases c
    case powerOnReset => exact ⟨fun _ => ⟨rfl, rfl, rfl, rfl, fun d hd => absurd hd List.not_mem_nil⟩, fun _ => rfl⟩
    case softReset => exact ⟨fun _ => ⟨rfl, rfl, rfl, rfl, fun d hd => absurd hd List.not_mem_nil⟩, fun _ => rfl⟩
    case push => exact hkeep (by decide) (by decide) fun hidle hq => pushCommand_quiet hidle hq
    case start => exact startCommand_quietWhenIdle hs
    case stop => exact stopCommand_quietWhenIdle hs
    case resume => exact resumeCommand_quietWhenIdle hs
    case abort => exact abortCommand_quietWhenIdle hs
    case pauseExpiry =>
      exact hnoop (by decide) (by decide) fun hq => pauseExpiry_of_idle hq.expander
    case fenceTake =>
      exact hnoop (by decide) (by decide) fun hq => fenceTake_of_idle hq.expander
    case deadlineExpiry =>
      exact hnoop (by decide) (by decide) fun hq => deadlineExpiry_of_nil hq.inFlight
    case dataArrival =>
      exact hkeep (by decide) (by decide) fun _ hq =>
        hq.of_same fun p _ => dataArrival_keeps_of_nil hq.inFlight p List.not_mem_nil
    case writeDataPhaseEnd =>
      exact hnoop (by decide) (by decide) fun hq => writeDataPhaseEnd_of_nil hq.writePhases
    case sweepTapSet =>
      exact hnoop (by decide) (by decide) fun hq => sweepTapSet_of_idle hq.expander
    case sweepEnd =>
      exact hnoop (by decide) (by decide) fun hq => sweepEnd_of_idle hq.expander
    case retirement =>
      exact hnoop (by decide) (by decide) fun hq => retirement_of_waiting hq.waiting
    case haltRequest cause => exact haltRequest_quietWhenIdle cause hs
    case drainEnd => exact drainEnd_quietWhenIdle hs
    case abortEnd => exact abortEnd_quietWhenIdle hs
    case accessPlacement => exact accessPlacement_quietWhenIdle hs
    case sweepReadPlacement => exact sweepReadPlacement_quietWhenIdle hs
    all_goals cases hwrites

/-- Settles O6: the invariant is stable, each command that can write its parts leaving the unit busy or quiet. -/
theorem stepKeepsIdleQuiet : Obligations.StepKeepsIdleQuiet := fun _ _ => quietWhenIdle_stable.step

end Sys2Proof.Machine
end

/-!
The read counts and the taps. A data arrival takes the oldest entry of the in-flight list and counts one read
completed, or moves neither (`takeArrival_reads`); a deadline loses every entry (`takeDeadline_reads`). A tap
changes only where the list is empty.
-/
section

namespace Sys2Proof.Machine

/-! ## How arrivals and deadlines move the read counts -/

theorem routeResult_keeps (e : InFlight) (r : CompareResult) (s : State) :
    Keeps [.queue, .expander] s (routeResult e r s) := by
  obtain ⟨_, _, _, _, _, h⟩ := routeResult_frame e r s
  rw [h]
  intro p hp
  cases p <;> first | exact absurd (by decide) hp | rfl

/-- The oldest read is completed: it leaves the list and is counted. -/
theorem matchArrival_reads (e : InFlight) (rest : List InFlight) (x : Burst) (s : State) :
    (matchArrival e rest x s).reads.inFlight = rest ∧
      (matchArrival e rest x s).run.stats.readsIssued = s.run.stats.readsIssued ∧
      (matchArrival e rest x s).run.stats.readsCompleted = satInc s.run.stats.readsCompleted ∧
      (matchArrival e rest x s).run.stats.readsLost = s.run.stats.readsLost := by
  unfold matchArrival
  dsimp only
  obtain ⟨_, _, _, _, _, h⟩ := routeResult_frame e
    (compareBursts s.pattern.ignoreMask x (patternBurst e.pattern e.addr))
    (countReadCompleted (completeAccess e.seq { s with reads.inFlight := rest }))
  rw [h]
  obtain ⟨_, _, h⟩ := windDownSweep_frame _
  rw [h]
  exact ⟨rfl, rfl, rfl, rfl⟩

/-- An arrival leaves the read counts and the in-flight list, or completes the oldest read. -/
theorem takeArrival_reads (x : Burst) (s : State) :
    (Part.readStats.Same s (takeArrival x s) ∧ (takeArrival x s).reads.inFlight = s.reads.inFlight) ∨
      ∃ e rest, s.reads.inFlight = e :: rest ∧ takeArrival x s = matchArrival e rest x s := by
  unfold takeArrival
  split
  · exact .inl ⟨rfl, rfl⟩
  · split
    · next e rest h => exact .inr ⟨e, rest, h, rfl⟩
    · exact .inl ⟨rfl, rfl⟩

/-- One data arrival takes one burst, or none waits. -/
theorem dataArrival_cases (s : State) :
    Keeps [] s (dataArrival s) ∨ ∃ x u, Keeps [] s u ∧ u.run.state = s.run.state ∧
      dataArrival s = takeArrival x u := by
  have hold : ∀ u, Keeps [] s u → Keeps [] s (takeOldestArrival u) ∨
      ∃ x v, Keeps [] s v ∧ v.run.state = s.run.state ∧ takeOldestArrival u = takeArrival x v := by
    intro u hu
    unfold takeOldestArrival
    split
    · next b rest _ =>
      refine .inr ⟨b, { u with capture.arrivals := rest }, hu.trans fun p _ => ?_,
        hu .runState List.not_mem_nil, rfl⟩
      cases p <;> rfl
    · exact .inl hu
  unfold dataArrival
  split
  · exact hold _ (finishAgedBurst_keeps s)
  · exact hold s (Keeps.refl _ s)

theorem readsLost_loseRead (s : State) (e : InFlight) :
    (loseRead s e).run.stats.readsLost = satInc s.run.stats.readsLost := by
  unfold loseRead
  dsimp only
  split
  · obtain ⟨_, _, h⟩ := sweepResult_frame e.seq true
      (countReadLost (modifyDescriptor e.seq
        (fun d => { d.completeAccess s.run.state with lost := satInc d.lost }) s))
    rw [h]
    rfl
  · rfl

/-- A counter raised once for each of a number of events. -/
theorem iterate_satInc_toNat {w : Nat} (n : Nat) (x : BitVec w) :
    (satInc^[n] x).toNat = min (x.toNat + n) (2 ^ w - 1) := by
  have hx := x.isLt
  induction n with
  | zero => simp only [Function.iterate_zero, id]; omega
  | succ n ih => rw [Function.iterate_succ_apply', satInc_toNat, ih]; omega

theorem readsLost_foldl_loseRead (l : List InFlight) (s : State) :
    (l.foldl loseRead s).run.stats.readsLost = satInc^[l.length] s.run.stats.readsLost := by
  induction l generalizing s with
  | nil => rfl
  | cons e l ih =>
    rw [List.foldl_cons, ih, readsLost_loseRead, List.length_cons, Function.iterate_succ_apply]

/-- Every entry is lost and counted. -/
theorem takeDeadline_reads (s : State) :
    (takeDeadline s).reads.inFlight = [] ∧
      (takeDeadline s).run.stats.readsIssued = s.run.stats.readsIssued ∧
      (takeDeadline s).run.stats.readsCompleted = s.run.stats.readsCompleted ∧
      (takeDeadline s).run.stats.readsLost =
        satInc^[s.reads.inFlight.length] s.run.stats.readsLost := by
  have hlost := readsLost_foldl_loseRead s.reads.inFlight { s with reads.inFlight := [] }
  unfold takeDeadline
  dsimp only
  obtain ⟨_, x, _, _, h⟩ := loseReads_frame s.reads.inFlight { s with reads.inFlight := [] }
  rw [h] at hlost ⊢
  obtain ⟨_, _, h⟩ := windDownSweep_frame _
  rw [h]
  exact ⟨rfl, rfl, rfl, hlost⟩

theorem deadlineExpiry_cases (s : State) :
    deadlineExpiry s = takeDeadline s ∨ deadlineExpiry s = s := by
  unfold deadlineExpiry
  split
  · split
    · exact .inl rfl
    · exact .inr rfl
  · exact .inr rfl

/-! ## READs issued are completed, lost or in flight (R138) -/

theorem readsBalanced_dependsOn : DependsOn [.readStats, .inFlight] ReadsBalanced := by
  intro s t h hs
  have hstats := h .readStats (by decide)
  have hflight : t.reads.inFlight = s.reads.inFlight := h .inFlight (by decide)
  simp only [Part.Same, Prod.mk.injEq] at hstats
  obtain ⟨hissued, hcompleted, hlost⟩ := hstats
  rwa [ReadsBalanced, hissued, hcompleted, hlost, hflight]

theorem readsBalanced_of_nil {s : State} (hstats : s.run.stats.readsIssued = 0)
    (hcompleted : s.run.stats.readsCompleted = 0) (hlost : s.run.stats.readsLost = 0)
    (h : s.reads.inFlight = []) : ReadsBalanced s := by
  intro _ _ _
  rw [hstats, hcompleted, hlost, h]
  rfl

theorem takeArrival_readsBalanced (x : Burst) {s : State} (hs : ReadsBalanced s) :
    ReadsBalanced (takeArrival x s) := by
  rcases takeArrival_reads x s with ⟨hstats, hflight⟩ | ⟨e, rest, h, heq⟩
  · refine readsBalanced_dependsOn s _ (fun p hp => ?_) hs
    rcases List.mem_pair.mp hp with rfl | rfl
    · exact hstats
    · exact hflight
  · obtain ⟨hflight, hissued, hcompleted, hlost⟩ := matchArrival_reads e rest x s
    rw [heq]
    intro hi hc hl
    rw [hissued] at hi ⊢
    rw [hcompleted, satInc_toNat] at hc ⊢
    rw [hlost] at hl ⊢
    have := hs hi (by omega) hl
    rw [h, List.length_cons] at this
    rw [hflight]
    omega

theorem takeDeadline_readsBalanced {s : State} (hs : ReadsBalanced s) : ReadsBalanced (takeDeadline s) := by
  obtain ⟨hflight, hissued, hcompleted, hlost⟩ := takeDeadline_reads s
  intro hi hc hl
  rw [hissued] at hi ⊢
  rw [hcompleted] at hc ⊢
  rw [hlost, iterate_satInc_toNat] at hl ⊢
  have := hs hi hc (by omega)
  rw [hflight, List.length_nil]
  omega

/-- The issue of a READ counts it and enters it. -/
theorem issueRead_readsBalanced (n : Nat) (a : Access) {s : State} (hs : ReadsBalanced s) :
    ReadsBalanced (issue n (.read a) s) := by
  change ReadsBalanced (recordRung n (driveBus _ (issueRead a s)))
  rw [issueRead_eq]
  intro hi hc hl
  change (satInc s.run.stats.readsIssued).toNat < _ at hi
  change (satInc s.run.stats.readsIssued).toNat = s.run.stats.readsCompleted.toNat +
    s.run.stats.readsLost.toNat + (s.reads.inFlight ++ [_]).length
  rw [satInc_toNat] at hi ⊢
  have := hs (by omega) hc hl
  rw [List.length_append, List.length_singleton]
  omega

theorem takeOpportunity_readsBalanced {s : State} (hs : ReadsBalanced s) :
    ReadsBalanced (takeOpportunity s) := by
  rcases takeOpportunity_cases s with ⟨n, c, -, hc, e⟩ | ⟨n, a, -, e⟩ | ⟨n, a, -, e⟩ | ⟨-, e⟩ <;> rw [e]
  · exact readsBalanced_dependsOn s _
      (fun p hp => issue_keepsParts hc n s p (by revert hp; cases p <;> decide)) hs
  · exact issueRead_readsBalanced n a hs
  · exact readsBalanced_dependsOn s _
      (fun p hp => issueWrite_keepsParts n a s p (by revert hp; cases p <;> decide)) hs
  · exact hs

/-- The read balance, in a state that is quiet in IDLE (START clears the counts, in IDLE). -/
theorem readsBalanced_stable : Stable fun s => QuietWhenIdle s ∧ ReadsBalanced s where
  pending q hs := ⟨quietWhenIdle_stable.pending q hs.1, hs.2⟩
  host h hs := ⟨quietWhenIdle_stable.host h hs.1, hs.2⟩
  opportunity hs := ⟨quietWhenIdle_stable.opportunity hs.1, takeOpportunity_readsBalanced hs.2⟩
  tclk {s} hs := by
    refine ⟨quietWhenIdle_stable.tclk hs.1, fun hi hc hl => ?_⟩
    have := hs.2 hi hc hl
    rw [show (passTclk s).reads.inFlight.length = s.reads.inFlight.length from List.length_map _]
    exact this
  command {c} hc s := by
    rintro ⟨hquiet, hs⟩
    refine ⟨quietWhenIdle_stable.command hc hquiet, ?_⟩
    cases hwrites : Avoids c [.readStats, .inFlight] with
    | true => exact readsBalanced_dependsOn.after hc hwrites hs
    | false =>
      cases c
      case powerOnReset => exact readsBalanced_of_nil rfl rfl rfl rfl
      case softReset => exact readsBalanced_of_nil rfl rfl rfl rfl
      case start =>
        change ReadsBalanced (startCommand s)
        rcases startCommand_cases s with ⟨c, d, h⟩ | ⟨hidle, -, h⟩ <;> rw [h]
        · exact hs
        · refine readsBalanced_dependsOn _ _ (fun p hp => examine_keeps _ p ?_) ?_
          · revert hp
            cases p <;> decide
          · exact readsBalanced_of_nil rfl rfl rfl (((quietWhenIdle_iff s).mp hquiet).1 hidle).inFlight
      case deadlineExpiry =>
        change ReadsBalanced (deadlineExpiry s)
        rcases deadlineExpiry_cases s with h | h <;> rw [h]
        · exact takeDeadline_readsBalanced hs
        · exact hs
      case dataArrival =>
        change ReadsBalanced (dataArrival s)
        rcases dataArrival_cases s with h | ⟨x, u, hu, -, h⟩
        · exact readsBalanced_dependsOn _ _ (fun p _ => h p List.not_mem_nil) hs
        · rw [h]
          exact takeArrival_readsBalanced x
            (readsBalanced_dependsOn _ _ (fun p _ => hu p List.not_mem_nil) hs)
      all_goals cases hwrites

/-- Settles O7: arrivals and deadlines move reads from the list to the counts, and the rest moves neither. -/
theorem stepKeepsReadsBalanced : Obligations.StepKeepsReadsBalanced := fun _ _ hquiet hs ht =>
  (readsBalanced_stable.step ⟨hquiet, hs⟩ ht).2

/-! ## A tap changes only with no read in flight (R172) -/

/-- The taps are as they were, or no read is in flight. -/
def TapsSafe (taps : PerQuad (BitVec 5)) (s : State) : Prop := s.sweep.taps = taps ∨ s.reads.inFlight = []

theorem TapsSafe.of_same {taps : PerQuad (BitVec 5)} {s t : State} (htaps : Part.taps.Same s t)
    (hflight : Part.inFlight.Same s t) (hs : TapsSafe taps s) : TapsSafe taps t :=
  hs.imp (Eq.trans htaps) (Eq.trans hflight)

theorem windDownSweep_taps (s : State) :
    (windDownSweep s).sweep.taps = s.sweep.taps ∨ (windDownSweep s).reads.inFlight = [] := by
  unfold windDownSweep
  split
  · split
    · next h => exact .inr h.2
    · exact .inl rfl
  · exact .inl rfl

theorem windDownSweep_tapsSafe {taps : PerQuad (BitVec 5)} {s : State} (hs : TapsSafe taps s) :
    TapsSafe taps (windDownSweep s) := by
  rcases windDownSweep_taps s with h | h
  · exact hs.of_same h (windDownSweep_keeps s .inFlight (by decide))
  · exact .inr h

/-- An arrival keeps a state safe: an entry leaves the list, and the wind-down asks for an empty one. -/
theorem takeArrival_tapsSafe {taps : PerQuad (BitVec 5)} (x : Burst) {s : State} (hs : TapsSafe taps s) :
    TapsSafe taps (takeArrival x s) := by
  unfold takeArrival
  split
  · exact hs
  · split
    · next e rest hlist =>
      have htaps : s.sweep.taps = taps := hs.resolve_right (by rw [hlist]; exact List.cons_ne_nil _ _)
      unfold matchArrival
      dsimp only
      refine windDownSweep_tapsSafe (.inl ?_)
      exact (routeResult_keeps e _ _ .taps (by decide)).trans htaps
    · exact hs

theorem dataArrival_tapsSafe {taps : PerQuad (BitVec 5)} {s : State} (hs : TapsSafe taps s) :
    TapsSafe taps (dataArrival s) := by
  have hkeep {u : State} (hu : Keeps [] s u) : TapsSafe taps u :=
    hs.of_same (hu .taps List.not_mem_nil) (hu .inFlight List.not_mem_nil)
  rcases dataArrival_cases s with h | ⟨x, u, hu, -, h⟩
  · exact hkeep h
  · rw [h]
    exact takeArrival_tapsSafe x (hkeep hu)

theorem deadlineExpiry_tapsSafe {taps : PerQuad (BitVec 5)} {s : State} (hs : TapsSafe taps s) :
    TapsSafe taps (deadlineExpiry s) := by
  rcases deadlineExpiry_cases s with h | h <;> rw [h]
  · exact .inr (takeDeadline_reads s).1
  · exact hs

theorem settleOverdue_tapsSafe {taps : PerQuad (BitVec 5)} {s : State} (hs : TapsSafe taps s) :
    TapsSafe taps (settleOverdue s) := by
  refine settleOverdue_of_events (P := TapsSafe taps) (fun c hc x hx => ?_) hs
  have hevent : c = .dataArrival ∨ c = .deadlineExpiry ∨ Avoids c [.taps, .inFlight] = true := by
    simp only [overdue, bankExpiries, List.mem_append, List.mem_flatMap, List.mem_replicate, List.mem_cons,
      List.not_mem_nil, or_false] at hc
    rcases hc with ((⟨b, -, h⟩ | h) | ⟨-, h⟩) | h
    · rcases h with rfl | rfl | rfl | rfl | rfl <;> exact .inr (.inr rfl)
    · rcases h with rfl | rfl | rfl <;> exact .inr (.inr rfl)
    · exact .inl h
    · rcases h with rfl | h
      · exact .inr (.inl rfl)
      · rcases h with rfl | rfl | rfl | rfl <;> exact .inr (.inr rfl)
  rcases hevent with rfl | rfl | havoids
  · exact dataArrival_tapsSafe hx
  · exact deadlineExpiry_tapsSafe hx
  · have hdepends : DependsOn [.taps, .inFlight] (TapsSafe taps) := fun s t h hs =>
      hs.of_same (h .taps (by decide)) (h .inFlight (by decide))
    exact hdepends.after (simple_of_mem_overdue hc) havoids hx

theorem passTclk_tapsSafe {taps : PerQuad (BitVec 5)} {s : State} (hs : TapsSafe taps s) :
    TapsSafe taps (passTclk s) :=
  hs.imp id fun h => by rw [passTclk, h]; rfl

theorem abortCommand_tapsSafe (s : State) : TapsSafe s.sweep.taps (abortCommand s) := by
  unfold abortCommand
  dsimp only
  split
  · exact .inl rfl
  · exact .inl rfl
  · change TapsSafe s.sweep.taps (abortExpander _)
    unfold abortExpander
    split
    · exact windDownSweep_tapsSafe (.inl rfl)
    · exact .inl rfl

theorem sweepTapSet_tapsSafe (s : State) : TapsSafe s.sweep.taps (sweepTapSet s) := by
  unfold sweepTapSet
  split
  · split
    · next h => exact .inr h.2.1
    · exact .inl rfl
  · exact .inl rfl

theorem sweepEnd_tapsSafe (s : State) : TapsSafe s.sweep.taps (sweepEnd s) := by
  unfold sweepEnd
  split
  · split
    · next hend =>
      refine .inr ((examine_keeps _ .inFlight (by decide)).trans ?_)
      simp only [sweepMayEnd, Bool.and_eq_true, List.isEmpty_iff] at hend
      exact hend.1.2
    · exact .inl rfl
  · exact .inl rfl

/-- A command in a state that is quiet in IDLE leaves the taps, or leaves no read in flight. -/
theorem after_tapsSafe {c : Instr} (hc : Simple c = true) {s : State} (hquiet : QuietWhenIdle s) :
    TapsSafe s.sweep.taps (after s c) := by
  cases htaps : (footprint c).contains Part.taps with
  | false => exact .inl (after_keeps hc s .taps (by simpa using htaps))
  | true =>
    cases c
    case powerOnReset => exact .inr rfl
    case softReset => exact .inr rfl
    case abort => exact abortCommand_tapsSafe s
    case tapWrite k be v =>
      change TapsSafe s.sweep.taps (tapWrite k be v s)
      rcases tapWrite_cases k be v s with ⟨hidle, h⟩ | h <;> rw [h]
      · exact .inr (((quietWhenIdle_iff s).mp hquiet).1 hidle).inFlight
      · exact .inl rfl
    case deadlineExpiry => exact deadlineExpiry_tapsSafe (.inl rfl)
    case dataArrival => exact dataArrival_tapsSafe (.inl rfl)
    case sweepTapSet => exact sweepTapSet_tapsSafe s
    case sweepEnd => exact sweepEnd_tapsSafe s
    all_goals cases htaps

theorem commandOpportunity_tapsSafe (s : State) : TapsSafe s.sweep.taps (commandOpportunity s) := by
  obtain ⟨-, -, -, -, -, -, -, -, -, -, -, -, -, -, -, -, -, -, -, -, -, -, hsweep, -⟩ :=
    takeOpportunity_keeps s
  exact passTclk_tapsSafe (settleOverdue_tapsSafe (.inl (congrArg SweepUnit.taps hsweep)))

/-- Settles O12: each command alone, and the arrivals and deadlines of a tclk, leave the taps or an empty
list. -/
theorem tapsChangeOnlyWithListEmpty : Obligations.TapsChangeOnlyWithListEmpty := by
  intro s t hquiet ht htaps
  have key (c : Instr) {s : State} (hquiet : QuietWhenIdle s) : TapsSafe s.sweep.taps (after s c) := by
    cases hc : Simple c with
    | true => exact after_tapsSafe hc hquiet
    | false =>
      cases c with
      | commandOpportunity => exact commandOpportunity_tapsSafe s
      | registerWrite a =>
        rcases registerWrite_cases a s with ⟨c, hc, e⟩ | ⟨x, e⟩ <;> rw [e]
        · exact after_tapsSafe hc hquiet
        · exact .inl rfl
      | _ => cases hc
  unfold step at ht
  split at ht
  · next c rest _ =>
    rw [← after_of_exec ht] at htaps ⊢
    exact (key c (quietWhenIdle_stable.pending rest hquiet)).resolve_left htaps
  · cases ht
    exact absurd rfl htaps

end Sys2Proof.Machine
end

/-!
Bank and rank records over a step. An expiry or a tclk leaves of a bank record what the laws speak of
(`BankRecord.Aged`), and every command but the resets, a geometry write and an alert leaves of a rank record
its recovery needed (`RankRecord.Kept`). The pending close order and recovery needed then follow the array
commands, the alert and the resets alone.
-/
section

namespace Sys2Proof.Machine

/-! ## Bank records -/

/-- What an expiry, a tclk and the end of a write data phase leave of a bank record. -/
structure BankRecord.Aged (k k' : BankRecord) : Prop where
  closePending : k'.closePending = k.closePending
  opened : ∀ row, k.state = .opened row → k'.state = .opened row
  unknown : k'.state = .unknown ↔ k.state = .unknown
  idle : k.idle ≤ 4095 → k'.idle ≤ 4095

theorem BankRecord.Aged.refl (k : BankRecord) : k.Aged k := ⟨rfl, fun _ h => h, Iff.rfl, id⟩

namespace BankRecord

/-- Expiries and endings that leave the bank's state, close pending and idle time. -/
theorem aged_of_same {k k' : BankRecord} (hstate : k'.state = k.state)
    (hpending : k'.closePending = k.closePending) (hidle : k'.idle = k.idle) : k.Aged k' :=
  ⟨hpending, fun _ h => hstate.trans h, by rw [hstate], fun h => hidle ▸ h⟩

theorem expireAccessReady_aged (k : BankRecord) : k.Aged k.expireAccessReady := by
  unfold expireAccessReady
  split
  · refine ⟨rfl, fun row h => ?_, ?_, id⟩
    · simp only [h]
    · cases k.state <;> simp
  · exact Aged.refl k

theorem expireCloseTime_aged (k : BankRecord) : k.Aged k.expireCloseTime := by
  unfold expireCloseTime
  split
  · refine ⟨rfl, fun row h => ?_, ?_, id⟩
    · simp only [h]
    · cases k.state <;> simp
  · exact Aged.refl k

theorem count_aged (k : BankRecord) : k.Aged k.count := by
  refine ⟨rfl, fun _ h => h, Iff.rfl, fun h => ?_⟩
  unfold count
  dsimp only
  split
  · exact Nat.min_le_right _ _
  · exact h

end BankRecord

theorem modifyBank_aged {f : BankRecord → BankRecord} (hf : ∀ k : BankRecord, k.Aged (f k))
    (c : BankAddr) (s : State) (b : BankAddr) : (bankAt s b).Aged (bankAt (modifyBank c f s) b) := by
  rw [bankAt_modifyBank]
  split
  · exact hf _
  · exact BankRecord.Aged.refl _

theorem bankAt_of_banks {s t : State} (h : t.banks = s.banks) (b : BankAddr) : bankAt t b = bankAt s b := by
  rw [bankAt, h, bankAt]

theorem writeDataPhaseEnd_aged (s : State) (b : BankAddr) :
    (bankAt s b).Aged (bankAt (writeDataPhaseEnd s) b) := by
  unfold writeDataPhaseEnd
  split
  · next p rest _ =>
    split
    · exact modifyBank_aged (f := fun k => k.writePhaseEnded (tclk s .writeRecovery))
        (fun _ => BankRecord.aged_of_same rfl rfl rfl) p.addr.bank { s with reads.writePhases := rest } b
    · exact BankRecord.Aged.refl _
  · exact BankRecord.Aged.refl _

/-- The commands that set banks outright: the resets, a geometry write and an alert. -/
def SetsBanks : Instr → Bool
  | .powerOnReset | .softReset | .geometryWrite _ _ | .targetAlert => true
  | _ => false

/-- Every other command ages the banks. -/
theorem after_aged {c : Instr} (hc : Simple c = true) (hsets : SetsBanks c = false) (s : State)
    (b : BankAddr) : (bankAt s b).Aged (bankAt (after s c) b) := by
  cases hbanks : (footprint c).contains Part.banks with
  | false =>
    rw [bankAt_of_banks (after_keeps hc s .banks (by simpa using hbanks))]
    exact BankRecord.Aged.refl _
  | true =>
    cases c
    case accessReadyExpiry c => exact modifyBank_aged BankRecord.expireAccessReady_aged c s b
    case closeTimeExpiry c => exact modifyBank_aged BankRecord.expireCloseTime_aged c s b
    case restoreExpiry c =>
      exact modifyBank_aged (f := BankRecord.expireRestore)
        (fun _ => BankRecord.aged_of_same rfl rfl rfl) c s b
    case writeRecoveryExpiry c =>
      exact modifyBank_aged (f := BankRecord.expireWriteRecovery)
        (fun _ => BankRecord.aged_of_same rfl rfl rfl) c s b
    case readCloseWaitExpiry c =>
      exact modifyBank_aged (f := BankRecord.expireReadCloseWait)
        (fun _ => BankRecord.aged_of_same rfl rfl rfl) c s b
    case writeDataPhaseEnd => exact writeDataPhaseEnd_aged s b
    case powerOnReset => cases hsets
    case softReset => cases hsets
    case geometryWrite => cases hsets
    case targetAlert => cases hsets
    all_goals cases hbanks

theorem passTclk_bankAt (s : State) (b : BankAddr) : bankAt (passTclk s) b = (bankAt s b).count :=
  bankAt_mapBanks b BankRecord.count s

theorem passTclk_rankAt (s : State) (r : Rank) : rankAt (passTclk s) r = (rankAt s r).count :=
  PerRank.get_map RankRecord.count s.ranks r

/-! ## Rank records -/

/-- What most commands leave of a rank record: recovery needed, and the remembered OPENs and the debt within
their bounds. -/
structure RankRecord.Kept (k k' : RankRecord) : Prop where
  recovery : k'.recoveryNeeded = k.recoveryNeeded
  history : k'.history = k.history
  debt : k.debt ≤ 8 → k'.debt ≤ 8

theorem RankRecord.Kept.refl (k : RankRecord) : k.Kept k := ⟨rfl, rfl, id⟩

theorem RankRecord.Kept.trans {k l m : RankRecord} (h : k.Kept l) (g : l.Kept m) : k.Kept m :=
  ⟨g.recovery.trans h.recovery, g.history.trans h.history, g.debt ∘ h.debt⟩

/-- The rank records of two states, each kept. -/
def RanksKept (s t : State) : Prop := ∀ r, (rankAt s r).Kept (rankAt t r)

theorem RanksKept.refl (s : State) : RanksKept s s := fun _ => RankRecord.Kept.refl _

theorem RanksKept.trans {s t u : State} (h : RanksKept s t) (g : RanksKept t u) : RanksKept s u :=
  fun r => (h r).trans (g r)

theorem ranksKept_of_ranks {s t : State} (h : t.ranks = s.ranks) : RanksKept s t := by
  intro r
  rw [rankAt, rankAt, h]
  exact RankRecord.Kept.refl _

theorem modifyRank_ranksKept {f : RankRecord → RankRecord} (hf : ∀ k : RankRecord, k.Kept (f k))
    (r : Rank) (s : State) : RanksKept s (modifyRank r f s) := by
  intro q
  rw [rankAt_modifyRank]
  split
  · exact hf _
  · exact RankRecord.Kept.refl _

theorem holdRank_ranksKept (r : Rank) (s : State) : RanksKept s (holdRank r s) :=
  modifyRank_ranksKept (f := fun k => { k with interval := k.interval.hold }) (fun _ => ⟨rfl, rfl, id⟩) r
    { s with refreshHold := s.refreshHold.modify r fun _ => true }

theorem beginPause_ranksKept (q : Seq) (n : BitVec 16) (h : PerRank Bool) (s : State) :
    RanksKept s (beginPause q n h s) := by
  simp only [beginPause, bothRanks, List.foldl]
  split <;> split
  · exact (holdRank_ranksKept .r0 s).trans (holdRank_ranksKept .r1 _)
  · exact holdRank_ranksKept .r0 s
  · exact holdRank_ranksKept .r1 s
  · exact RanksKept.refl s

theorem takeDescriptor_ranksKept (d : Descriptor) (s : State) : RanksKept s (takeDescriptor d s) := by
  unfold takeDescriptor
  cases d.work with
  | pause n h => exact beginPause_ranksKept _ n h (setLife d.seq .expanding s)
  | _ => exact RanksKept.refl s

theorem examineUpTo_ranksKept (n : Nat) (s : State) : RanksKept s (examineUpTo n s) := by
  induction n generalizing s with
  | zero => exact RanksKept.refl s
  | succ n ih =>
    unfold examineUpTo
    split
    · exact RanksKept.refl s
    · split
      · exact ih (setLife _ .complete s)
      · split
        · exact takeDescriptor_ranksKept _ s
        · exact RanksKept.refl s

theorem examine_ranksKept (s : State) : RanksKept s (examine s) := by
  unfold examine
  split
  · exact examineUpTo_ranksKept _ s
  · exact RanksKept.refl s

theorem examine_ranksKept_of_ranks {s u : State} (h : u.ranks = s.ranks) : RanksKept s (examine u) :=
  (ranksKept_of_ranks h).trans (examine_ranksKept u)

theorem fenceTake_ranksKept (s : State) : RanksKept s (fenceTake s) := by
  unfold fenceTake
  split
  · split
    · split
      · exact takeDescriptor_ranksKept _ s
      · exact RanksKept.refl s
    · exact RanksKept.refl s
  · exact RanksKept.refl s

theorem rankAt_releaseHolds (s : State) (r : Rank) :
    rankAt (releaseHolds s) r =
      if s.refreshHold.get r then { rankAt s r with interval := (rankAt s r).interval.release }
      else rankAt s r :=
  PerRank.get_tabulate _ r

theorem releaseHolds_ranksKept (s : State) : RanksKept s (releaseHolds s) := by
  intro r
  rw [rankAt_releaseHolds]
  split
  · exact ⟨rfl, rfl, id⟩
  · exact RankRecord.Kept.refl _

theorem endPause_ranksKept (q : Seq) (cut : Bool) (s : State) : RanksKept s (endPause q cut s) :=
  releaseHolds_ranksKept
    (modifyDescriptor q (fun d => { d with life := .complete, cutShort := cut }) s)

theorem pauseExpiry_ranksKept (s : State) : RanksKept s (pauseExpiry s) := by
  unfold pauseExpiry
  split
  · split
    · exact (endPause_ranksKept _ _ s).trans (examine_ranksKept _)
    · exact RanksKept.refl s
  · exact RanksKept.refl s

theorem startCommand_ranksKept (s : State) : RanksKept s (startCommand s) := by
  rcases startCommand_cases s with ⟨_, _, h⟩ | ⟨-, -, h⟩ <;> rw [h]
  · exact RanksKept.refl s
  · exact examine_ranksKept (enterRunning (takeCommand 2 0 s))

theorem stopExpander_ranksKept (s : State) : RanksKept s (stopExpander s) := by
  unfold stopExpander
  split
  case h_4 => exact endPause_ranksKept _ _ s
  all_goals exact RanksKept.refl s

theorem stopCommand_ranksKept (s : State) : RanksKept s (stopCommand s) := by
  unfold stopCommand
  dsimp only
  split
  · exact stopExpander_ranksKept { takeCommand 3 0 s with run.state := .draining }
  · exact RanksKept.refl s
  · exact RanksKept.refl s

theorem resumeCommand_ranksKept (s : State) : RanksKept s (resumeCommand s) := by
  unfold resumeCommand
  dsimp only
  split
  · split
    · exact RanksKept.refl s
    · exact (fenceTake_ranksKept { takeCommand 4 0 s with run.state := .running }).trans
        (examine_ranksKept _)
  · exact RanksKept.refl s

theorem pushCommand_ranksKept (s : State) : RanksKept s (pushCommand s) := by
  rcases pushCommand_cases s with ⟨_, h⟩ | ⟨-, w, h⟩ <;> rw [h]
  · exact RanksKept.refl s
  · exact examine_ranksKept_of_ranks rfl

theorem accessPlacement_ranksKept (s : State) : RanksKept s (accessPlacement s) := by
  unfold accessPlacement
  split
  · split
    · split
      · unfold placeBurst
        dsimp only
        split
        · split
          · exact RanksKept.refl s
          · exact examine_ranksKept_of_ranks rfl
        · exact RanksKept.refl s
      · exact RanksKept.refl s
    · exact RanksKept.refl s
  · exact RanksKept.refl s

theorem sweepEnd_ranksKept (s : State) : RanksKept s (sweepEnd s) := by
  unfold sweepEnd
  split
  · split
    · exact examine_ranksKept_of_ranks rfl
    · exact RanksKept.refl s
  · exact RanksKept.refl s

theorem abortEnd_ranksKept (s : State) : RanksKept s (abortEnd s) := by
  unfold abortEnd
  split
  · exact releaseHolds_ranksKept { discardQueue s with run.state := .idle }
  · exact RanksKept.refl s

theorem takeIntervalExpiry_ranksKept (r : Rank) (s : State) : RanksKept s (takeIntervalExpiry r s) := by
  unfold takeIntervalExpiry
  split
  · next hdebt =>
    have hdebt : (rankAt s r).debt < 8 := hdebt
    intro q
    rw [rankAt_modifyRank]
    split
    · next hq =>
      subst hq
      exact ⟨rfl, rfl, fun _ => hdebt⟩
    · exact RankRecord.Kept.refl _
  · have hrestart : RanksKept s
        (modifyRank r (fun k => { k with interval := .running (tclk s .refreshInterval) }) s) :=
      modifyRank_ranksKept (f := fun k => { k with interval := .running (tclk s .refreshInterval) })
        (fun _ => ⟨rfl, rfl, id⟩) r s
    dsimp only
    split <;> exact hrestart.trans (ranksKept_of_ranks rfl)

theorem intervalExpiry_ranksKept (r : Rank) (s : State) : RanksKept s (intervalExpiry r s) := by
  unfold intervalExpiry
  split
  · exact takeIntervalExpiry_ranksKept r s
  · exact RanksKept.refl s

theorem forNamed_ranksKept {f : Rank → State → State} (hf : ∀ r s, RanksKept s (f r s))
    (mask : BitVec 2) (s : State) : RanksKept s (forNamed mask f s) := by
  simp only [forNamed, bothRanks, List.foldl]
  split <;> split
  · exact (hf .r0 s).trans (hf .r1 _)
  · exact hf .r1 s
  · exact hf .r0 s
  · exact RanksKept.refl s

theorem enableRank_ranksKept (r : Rank) (s : State) : RanksKept s (enableRank r s) :=
  modifyRank_ranksKept (f := fun k => { k with debt := 0, interval := fullInterval s r })
    (fun _ => ⟨rfl, rfl, fun _ => Nat.zero_le 8⟩) r
    { s with refresh.enable := s.refresh.enable.modify r fun _ => true }

theorem disableRank_ranksKept (r : Rank) (s : State) : RanksKept s (disableRank r s) :=
  modifyRank_ranksKept (f := fun k => { k with debt := 0, interval := .stopped })
    (fun _ => ⟨rfl, rfl, fun _ => Nat.zero_le 8⟩) r
    { s with refresh.enable := s.refresh.enable.modify r fun _ => false }

theorem refreshEnableCommand_ranksKept (mask : BitVec 2) (s : State) :
    RanksKept s (refreshEnableCommand mask s) := by
  rcases refreshEnableCommand_cases mask s with ⟨_, h⟩ | ⟨-, -, h⟩ <;> rw [h]
  · exact RanksKept.refl s
  · exact forNamed_ranksKept enableRank_ranksKept mask (loadRefreshPair (takeCommand 10 mask s))

theorem refreshDisableCommand_ranksKept (mask : BitVec 2) (s : State) :
    RanksKept s (refreshDisableCommand mask s) :=
  forNamed_ranksKept disableRank_ranksKept mask (takeCommand 11 mask s)

theorem refreshTimeExpiry_ranksKept (r : Rank) (s : State) :
    RanksKept s (modifyRank r RankRecord.expireRefreshTime s) := by
  refine modifyRank_ranksKept (fun k => ?_) r s
  unfold RankRecord.expireRefreshTime
  split
  · exact ⟨rfl, rfl, id⟩
  · exact RankRecord.Kept.refl k

/-- Every command but the resets, a geometry write and an alert keeps the rank records. -/
theorem after_ranksKept {c : Instr} (hc : Simple c = true) (hsets : SetsBanks c = false) (s : State) :
    RanksKept s (after s c) := by
  cases hranks : (footprint c).contains Part.ranks with
  | false => exact ranksKept_of_ranks (after_keeps hc s .ranks (by simpa using hranks))
  | true =>
    cases c
    case push => exact pushCommand_ranksKept s
    case start => exact startCommand_ranksKept s
    case stop => exact stopCommand_ranksKept s
    case resume => exact resumeCommand_ranksKept s
    case refreshEnable mask => exact refreshEnableCommand_ranksKept mask s
    case refreshDisable mask => exact refreshDisableCommand_ranksKept mask s
    case refreshTimeExpiry r => exact refreshTimeExpiry_ranksKept r s
    case intervalExpiry r => exact intervalExpiry_ranksKept r s
    case pauseExpiry => exact pauseExpiry_ranksKept s
    case fenceTake => exact fenceTake_ranksKept s
    case accessPlacement => exact accessPlacement_ranksKept s
    case sweepEnd => exact sweepEnd_ranksKept s
    case abortEnd => exact abortEnd_ranksKept s
    case powerOnReset => cases hsets
    case softReset => cases hsets
    case geometryWrite => cases hsets
    case targetAlert => cases hsets
    all_goals cases hranks

/-! ## Ranks lost to an alert or a change of ranks present (R59, R63) -/

theorem bankAt_loseRank (r : Rank) (s : State) (b : BankAddr) :
    bankAt (loseRank r s) b = if b.rank = r then (bankAt s b).alert else bankAt s b :=
  bankAt_modifyRankBanks r b BankRecord.alert s

theorem rankAt_loseRank (r q : Rank) (s : State) :
    rankAt (loseRank r s) q = if q = r then (rankAt s q).needRecovery else rankAt s q :=
  rankAt_modifyRank r q RankRecord.needRecovery (modifyRankBanks r BankRecord.alert s)

/-- A law that ranks lost keep, and that does not speak of the rest of what an alert and a geometry write
change, is kept by both. -/
theorem targetAlert_of_loseRank {P : State → Prop} (hlose : ∀ r s, P s → P (loseRank r s))
    {ps : List Part} (hdep : DependsOn ps P) {s : State} (hs : P s) : P (targetAlert s) := by
  have hsame {s t : State} (h : Keeps [] s t) (hs : P s) : P t :=
    hdep s t (fun p _ => h p List.not_mem_nil) hs
  have hfold (l : List Rank) {s : State} (hs : P s) : P (l.foldl (fun s r => loseRank r s) s) := by
    induction l generalizing s with
    | nil => exact hs
    | cons r l ih => exact ih (hlose r s hs)
  unfold targetAlert
  split
  · exact hs
  · have hcounted : P { s with capture.alertWasActive := true, run.alerts := satInc s.run.alerts } :=
      hsame (fun p _ => by cases p <;> rfl) hs
    have hlost := hfold (presentRanks s) hcounted
    unfold takeAlert
    dsimp only
    split
    · exact hsame (fun p _ => by cases p <;> rfl) hlost
    · exact hlost

/-- A geometry write is refused, stores the geometry alone, or sets rank 1 again as well (R14). -/
theorem geometryWrite_cases (be : BitVec 4) (v : Word) (s : State) :
    geometryWrite be v s = countBadAccess s ∨
      geometryWrite be v s = { s with timing.geometry := geometryOfWord v } ∨
      geometryWrite be v s = rankCountChanged { s with timing.geometry := geometryOfWord v } := by
  have hwrite : writeGeometry v s = { s with timing.geometry := geometryOfWord v } ∨
      writeGeometry v s = rankCountChanged { s with timing.geometry := geometryOfWord v } := by
    unfold writeGeometry
    dsimp only
    split
    · exact .inl rfl
    · exact .inr rfl
  unfold geometryWrite
  rcases ifFull_cases be (ifIdle fun s =>
    if s.intake.queue.isEmpty then writeGeometry v s else countBadAccess s) s with h | h <;> rw [h]
  · rcases ifIdle_cases (fun s =>
      if s.intake.queue.isEmpty then writeGeometry v s else countBadAccess s) s with ⟨-, h⟩ | h <;> rw [h]
    · dsimp only
      split
      · exact .inr hwrite
      · exact .inl rfl
    · exact .inl rfl
  · exact .inl rfl

theorem geometryWrite_of_loseRank {P : State → Prop} (hlose : ∀ r s, P s → P (loseRank r s))
    {ps : List Part} (hdep : DependsOn ps P)
    (hrank : ∀ i s, P s → P (modifyRank .r1 (fun k => { k with debt := 0, interval := i }) s))
    (be : BitVec 4) (v : Word) {s : State} (hs : P s) :
    P (geometryWrite be v s) := by
  have hwritten : P { s with timing.geometry := geometryOfWord v } :=
    hdep s _ (fun p _ => by cases p <;> rfl) hs
  rcases geometryWrite_cases be v s with h | h | h <;> rw [h]
  · exact hdep s _ (fun p _ => by cases p <;> rfl) hs
  · exact hwritten
  · exact hrank _ _ (hlose .r1 _ hwritten)

/-! ## What a chosen command finds -/

/-- An OPEN finds its bank CLOSED. -/
theorem closed_of_choose_openRow {s : State} {n : Nat} {b : BankAddr} {row : Nat}
    (h : choose s = some (n, .openRow b row)) : (bankAt s b).state = .closed := by
  obtain ⟨-, -, -, heligible, -⟩ := choose_some h
  simp only [eligible, tableAllowsOpen, Bool.and_eq_true, beq_iff_eq] at heligible
  obtain ⟨⟨⟨hclosed, -⟩, -⟩, -⟩ := heligible
  exact hclosed

/-- A READ or WRITE finds its bank OPEN with no close pending. -/
theorem opened_of_choose_access {s : State} {n : Nat} {a : Access}
    (h : choose s = some (n, .read a) ∨ choose s = some (n, .write a)) :
    (bankAt s a.addr.bank).state = .opened a.addr.row ∧ (bankAt s a.addr.bank).closePending = false := by
  have key {x : Bool} (heligible : (tableAllowsAccess s a.addr.bank a.addr.row && x) = true) :
      (bankAt s a.addr.bank).state = .opened a.addr.row ∧ (bankAt s a.addr.bank).closePending = false :=
    (tableAllowsAccess_iff s _ _).mp (Bool.and_eq_true _ _ ▸ heligible).1
  rcases h with h | h
  · obtain ⟨-, -, -, heligible, -⟩ := choose_some h
    exact key heligible
  · obtain ⟨-, -, -, heligible, -⟩ := choose_some h
    exact key heligible

/-- A CLOSE finds its bank OPEN. -/
theorem opened_of_choose_close {s : State} {n : Nat} {b : BankAddr} (h : choose s = some (n, .close b)) :
    ∃ row, (bankAt s b).state = .opened row := by
  obtain ⟨-, -, -, heligible, -⟩ := choose_some h
  exact ((tableAllowsClose_iff s b).mp heligible).1

/-! ## The banks and ranks after the issue of each command -/

section Issue

variable (n : Nat) (s : State)

theorem bankAt_issue_openRow (b : BankAddr) (row : Nat) (c : BankAddr) :
    bankAt (issue n (.openRow b row) s) c =
      if c = b then (bankAt s c).openRow row (tclk s .openToAccess) (tclk s .openToClose)
      else bankAt s c :=
  bankAt_modifyBank b c _ s

theorem rankAt_issue_openRow (b : BankAddr) (row : Nat) (r : Rank) :
    rankAt (issue n (.openRow b row) s) r =
      if r = b.rank then (rankAt s r).opened else rankAt s r :=
  rankAt_modifyRank b.rank r RankRecord.opened _

theorem bankAt_issue_close (b c : BankAddr) :
    bankAt (issue n (.close b) s) c =
      if c = b then (bankAt s c).close (tclk s .closeTime) else bankAt s c :=
  bankAt_modifyBank b c _ s

theorem bankAt_issue_closeRank (r : Rank) (c : BankAddr) :
    bankAt (issue n (.closeRank r) s) c =
      if c.rank = r then (bankAt s c).closeWithRank (tclk s .closeTime) else bankAt s c :=
  bankAt_modifyRankBanks r c _ s

theorem rankAt_issue_closeRank (r q : Rank) :
    rankAt (issue n (.closeRank r) s) q = if q = r then (rankAt s q).closed else rankAt s q :=
  rankAt_modifyRank r q RankRecord.closed _

theorem rankAt_issue_refresh (r q : Rank) :
    rankAt (issue n (.refresh r) s) q =
      if q = r then (rankAt s q).refreshed (tclk s .refreshTime) else rankAt s q :=
  rankAt_modifyRank r q _ s

theorem bankAt_issue_read (a : Access) (c : BankAddr) :
    bankAt (issue n (.read a) s) c =
      if c = a.addr.bank then (bankAt s c).readIssued a.closeAfter else bankAt s c := by
  refine Eq.trans ?_ (bankAt_modifyBank a.addr.bank c (fun k => k.readIssued a.closeAfter) s)
  refine bankAt_of_banks ?_ c
  change (recordRung n (driveBus _ (issueRead a s))).banks = _
  rw [issueRead_eq]
  rfl

theorem bankAt_issue_write (a : Access) (c : BankAddr) :
    bankAt (issue n (.write a) s) c =
      if c = a.addr.bank then (bankAt s c).writeIssued a.closeAfter else bankAt s c := by
  refine Eq.trans ?_ (bankAt_modifyBank a.addr.bank c (fun k => k.writeIssued a.closeAfter) s)
  refine bankAt_of_banks ?_ c
  change (recordRung n (driveBus _ (issueWrite a s))).banks = _
  rw [issueWrite_eq]
  rfl

end Issue

/-! ## The pending close order (R91, R52) -/

theorem pendingCloseAgrees_dependsOn : DependsOn [.pendingClose, .banks] PendingCloseAgrees := by
  intro s t h hs
  have hlist : t.arbiter.pendingClose = s.arbiter.pendingClose := h .pendingClose (by decide)
  have hbank := bankAt_of_banks (h .banks (by decide))
  simp only [PendingCloseAgrees, hlist, hbank]
  exact hs

/-- The order is as it was, each bank keeps its close pending, and a pending OPEN bank stays OPEN. -/
theorem pendingCloseAgrees_of_same {s t : State}
    (hlist : t.arbiter.pendingClose = s.arbiter.pendingClose)
    (hbank : ∀ b, (bankAt t b).closePending = (bankAt s b).closePending ∧
      ((bankAt s b).closePending = true → ∀ row, (bankAt s b).state = .opened row →
        ∃ row', (bankAt t b).state = .opened row'))
    (hs : PendingCloseAgrees s) : PendingCloseAgrees t := by
  obtain ⟨hnodup, hmem, hopen⟩ := hs
  refine ⟨hlist ▸ hnodup, fun b => ?_, fun b hb => ?_⟩
  · rw [hlist, (hbank b).1]
    exact hmem b
  · rw [(hbank b).1] at hb
    obtain ⟨row, hrow⟩ := hopen b hb
    exact (hbank b).2 hb row hrow

theorem pendingCloseAgrees_of_aged {s t : State}
    (hlist : t.arbiter.pendingClose = s.arbiter.pendingClose)
    (hbank : ∀ b, (bankAt s b).Aged (bankAt t b)) (hs : PendingCloseAgrees s) : PendingCloseAgrees t :=
  pendingCloseAgrees_of_same hlist
    (fun b => ⟨(hbank b).closePending, fun _ row h => ⟨row, (hbank b).opened row h⟩⟩) hs

/-- Some banks leave the order and lose their close pending; the others are as they were. -/
theorem pendingCloseAgrees_of_filter {s t : State} (keep : BankAddr → Bool)
    (hlist : t.arbiter.pendingClose = s.arbiter.pendingClose.filter keep)
    (hgone : ∀ b, keep b = false → (bankAt t b).closePending = false)
    (hstay : ∀ b, keep b = true → bankAt t b = bankAt s b)
    (hs : PendingCloseAgrees s) : PendingCloseAgrees t := by
  obtain ⟨hnodup, hmem, hopen⟩ := hs
  refine ⟨hlist ▸ hnodup.filter keep, fun b => ?_, fun b hb => ?_⟩
  · rw [hlist, List.mem_filter]
    cases hkeep : keep b with
    | true => rw [hstay b hkeep, hmem b, and_iff_left rfl]
    | false => simp [hgone b hkeep]
  · cases hkeep : keep b with
    | true =>
      rw [hstay b hkeep] at hb ⊢
      exact hopen b hb
    | false =>
      rw [hgone b hkeep] at hb
      cases hb

theorem loseRank_pendingCloseAgrees (r : Rank) (s : State) (hs : PendingCloseAgrees s) :
    PendingCloseAgrees (loseRank r s) := by
  refine pendingCloseAgrees_of_filter (s := s) (fun b => b.rank != r) rfl (fun b hb => ?_) (fun b hb => ?_) hs
  · rw [bankAt_loseRank, if_pos (by simpa using hb)]
    rfl
  · rw [bankAt_loseRank, if_neg (by simpa using hb)]

/-- A closing command takes its banks out of the order. -/
theorem closeWithRank_closePending (k : BankRecord) (n : Nat) : (k.closeWithRank n).closePending = false := by
  unfold BankRecord.closeWithRank
  split <;> rfl

/-- An access that closes its bank after it puts the bank at the end of the order. -/
theorem pendingCloseAgrees_of_access {s t : State} (a : Access)
    (hpending : (bankAt s a.addr.bank).closePending = false)
    (hlist : t.arbiter.pendingClose =
      s.arbiter.pendingClose ++ (if a.closeAfter then [a.addr.bank] else []))
    (hbank : (bankAt t a.addr.bank).state = .opened a.addr.row ∧
      (bankAt t a.addr.bank).closePending = a.closeAfter)
    (hother : ∀ b, b ≠ a.addr.bank → bankAt t b = bankAt s b)
    (hs : PendingCloseAgrees s) : PendingCloseAgrees t := by
  obtain ⟨hnodup, hmem, hopen⟩ := hs
  have hnew : a.addr.bank ∉ s.arbiter.pendingClose := by
    rw [hmem, hpending]
    exact Bool.false_ne_true
  refine ⟨?_, fun b => ?_, fun b hb => ?_⟩
  · rw [hlist]
    cases a.closeAfter with
    | false => simpa using hnodup
    | true => simpa [List.nodup_append] using ⟨hnodup, fun b hb e => hnew (e ▸ hb)⟩
  · rw [hlist, List.mem_append]
    by_cases hb : b = a.addr.bank
    · subst hb
      rw [hbank.2]
      cases a.closeAfter <;> simp [hnew]
    · rw [hother b hb, ← hmem b]
      cases a.closeAfter <;> simp [hb]
  · by_cases hb' : b = a.addr.bank
    · subst hb'
      exact ⟨_, hbank.1⟩
    · rw [hother b hb'] at hb ⊢
      exact hopen b hb

section Issue

variable {n : Nat} {s : State} (hs : PendingCloseAgrees s)
include hs

theorem issue_openRow_pendingCloseAgrees {b : BankAddr} {row : Nat}
    (hclosed : (bankAt s b).state = .closed) : PendingCloseAgrees (issue n (.openRow b row) s) := by
  have hfalse : (bankAt s b).closePending = false := by
    rw [Bool.eq_false_iff]
    intro hb
    obtain ⟨-, -, hopen⟩ := hs
    obtain ⟨row', hrow⟩ := hopen b hb
    rw [hclosed] at hrow
    cases hrow
  refine pendingCloseAgrees_of_same (s := s) rfl (fun c => ?_) hs
  rw [bankAt_issue_openRow]
  by_cases hcb : c = b
  · subst hcb
    rw [if_pos rfl, hfalse]
    exact ⟨rfl, fun h => by cases h⟩
  · rw [if_neg hcb]
    exact ⟨rfl, fun _ row h => ⟨row, h⟩⟩

theorem issue_close_pendingCloseAgrees (b : BankAddr) : PendingCloseAgrees (issue n (.close b) s) := by
  refine pendingCloseAgrees_of_filter (s := s) (fun c => c != b) rfl (fun c h => ?_) (fun c h => ?_) hs
  · rw [bankAt_issue_close, if_pos (by simpa using h)]
    rfl
  · rw [bankAt_issue_close, if_neg (by simpa using h)]

theorem issue_closeRank_pendingCloseAgrees (r : Rank) :
    PendingCloseAgrees (issue n (.closeRank r) s) := by
  refine pendingCloseAgrees_of_filter (s := s) (fun c => c.rank != r) rfl (fun c h => ?_)
    (fun c h => ?_) hs
  · rw [bankAt_issue_closeRank, if_pos (by simpa using h)]
    exact closeWithRank_closePending _ _
  · rw [bankAt_issue_closeRank, if_neg (by simpa using h)]

theorem issue_refresh_pendingCloseAgrees (r : Rank) : PendingCloseAgrees (issue n (.refresh r) s) :=
  pendingCloseAgrees_of_same (s := s) rfl (fun _ => ⟨rfl, fun _ row h => ⟨row, h⟩⟩) hs

theorem issue_read_pendingCloseAgrees {a : Access}
    (hopened : (bankAt s a.addr.bank).state = .opened a.addr.row)
    (hpending : (bankAt s a.addr.bank).closePending = false) :
    PendingCloseAgrees (issue n (.read a) s) := by
  refine pendingCloseAgrees_of_access a hpending ?_ ?_ (fun b hb => ?_) hs
  · change (recordRung n (driveBus _ (issueRead a s))).arbiter.pendingClose = _
    rw [issueRead_eq]
    rfl
  · rw [bankAt_issue_read, if_pos rfl]
    exact ⟨hopened, by simp [BankRecord.readIssued, hpending]⟩
  · rw [bankAt_issue_read, if_neg hb]

theorem issue_write_pendingCloseAgrees {a : Access}
    (hopened : (bankAt s a.addr.bank).state = .opened a.addr.row)
    (hpending : (bankAt s a.addr.bank).closePending = false) :
    PendingCloseAgrees (issue n (.write a) s) := by
  refine pendingCloseAgrees_of_access a hpending ?_ ?_ (fun b hb => ?_) hs
  · change (recordRung n (driveBus _ (issueWrite a s))).arbiter.pendingClose = _
    rw [issueWrite_eq]
    rfl
  · rw [bankAt_issue_write, if_pos rfl]
    exact ⟨hopened, by simp [BankRecord.writeIssued, hpending]⟩
  · rw [bankAt_issue_write, if_neg hb]

end Issue

theorem takeOpportunity_pendingCloseAgrees {s : State} (hs : PendingCloseAgrees s) :
    PendingCloseAgrees (takeOpportunity s) := by
  rcases takeOpportunity_cases s with ⟨n, c, hch, hc, e⟩ | ⟨n, a, hch, e⟩ | ⟨n, a, hch, e⟩ | ⟨-, e⟩ <;>
    rw [e]
  · cases c with
    | openRow b row => exact issue_openRow_pendingCloseAgrees hs (closed_of_choose_openRow hch)
    | close b => exact issue_close_pendingCloseAgrees hs b
    | closeRank r => exact issue_closeRank_pendingCloseAgrees hs r
    | refresh r => exact issue_refresh_pendingCloseAgrees hs r
    | read a => cases hc
    | write a => cases hc
  · obtain ⟨hopened, hpending⟩ := opened_of_choose_access (.inl hch)
    exact issue_read_pendingCloseAgrees hs hopened hpending
  · obtain ⟨hopened, hpending⟩ := opened_of_choose_access (.inr hch)
    exact issue_write_pendingCloseAgrees hs hopened hpending
  · exact hs

theorem pendingCloseAgrees_of_initial {s : State} (hlist : s.arbiter.pendingClose = [])
    (hbank : ∀ b, bankAt s b = .initial) : PendingCloseAgrees s := by
  have hpending (b : BankAddr) : (bankAt s b).closePending = false := by
    rw [hbank]
    rfl
  refine ⟨hlist ▸ List.nodup_nil, fun b => ?_, fun b hb => ?_⟩
  · simp [hlist, hpending b]
  · rw [hpending] at hb
    cases hb

theorem bankAt_softResetCommand (s : State) (b : BankAddr) : bankAt (softResetCommand s) b = .initial := by
  change ((PerRank.all (PerQuad.all (PerQuad.all BankRecord.initial))).get b.rank |>.get b.bankSet
    |>.get b.bank) = _
  simp

theorem pendingCloseAgrees_stable : Stable PendingCloseAgrees where
  pending _ hs := hs
  host _ hs := hs
  opportunity := takeOpportunity_pendingCloseAgrees
  tclk {s} hs := pendingCloseAgrees_of_aged (s := s) rfl
    (fun b => by rw [passTclk_bankAt]; exact (bankAt s b).count_aged) hs
  command {c} hc s hs := by
    cases hsets : SetsBanks c with
    | false =>
      refine pendingCloseAgrees_of_aged (after_keeps hc s .pendingClose ?_) (after_aged hc hsets s) hs
      have hnone : (footprint c).contains Part.pendingClose = false := by
        cases c <;> cases hsets <;> rfl
      simpa using hnone
    | true =>
      cases c
      case powerOnReset => exact pendingCloseAgrees_of_initial rfl bankAt_reset
      case softReset => exact pendingCloseAgrees_of_initial rfl (bankAt_softResetCommand s)
      case targetAlert =>
        exact targetAlert_of_loseRank loseRank_pendingCloseAgrees pendingCloseAgrees_dependsOn hs
      case geometryWrite be v =>
        exact geometryWrite_of_loseRank loseRank_pendingCloseAgrees pendingCloseAgrees_dependsOn
          (fun _ _ h => h) be v hs
      all_goals cases hsets

/-- Settles O8: each command that sets or clears a close pending changes the order with it. -/
theorem stepKeepsPendingCloseOrder : Obligations.StepKeepsPendingCloseOrder := fun _ _ =>
  pendingCloseAgrees_stable.step

/-! ## Recovery needed (R58) -/

theorem recoveryAgrees_dependsOn : DependsOn [.banks, .ranks] RecoveryAgrees := by
  intro s t h hs b
  have hranks : t.ranks = s.ranks := h .ranks (by decide)
  rw [bankAt_of_banks (h .banks (by decide)), rankAt, hranks]
  exact hs b

/-- Recovery needed of each rank and UNKNOWN of each bank are as they were. -/
theorem recoveryAgrees_of_same {s t : State}
    (hrank : ∀ r, (rankAt t r).recoveryNeeded = (rankAt s r).recoveryNeeded)
    (hbank : ∀ b, (bankAt t b).state = .unknown ↔ (bankAt s b).state = .unknown)
    (hs : RecoveryAgrees s) : RecoveryAgrees t := by
  intro b
  rw [hrank, hbank]
  exact hs b

/-- One rank is set as a whole, its banks all UNKNOWN or none; the other is as it was. -/
theorem recoveryAgrees_of_rank {s t : State} (r : Rank)
    (hset : ∀ b : BankAddr, b.rank = r →
      ((rankAt t r).recoveryNeeded = true ↔ (bankAt t b).state = .unknown))
    (hrank : ∀ q, q ≠ r → rankAt t q = rankAt s q)
    (hbank : ∀ b : BankAddr, b.rank ≠ r → bankAt t b = bankAt s b)
    (hs : RecoveryAgrees s) : RecoveryAgrees t := by
  intro b
  by_cases hb : b.rank = r
  · rw [hb]
    exact hset b hb
  · rw [hrank _ hb, hbank b hb]
    exact hs b

theorem loseRank_recoveryAgrees (r : Rank) (s : State) (hs : RecoveryAgrees s) :
    RecoveryAgrees (loseRank r s) := by
  refine recoveryAgrees_of_rank r (fun b hb => ?_) (fun q hq => ?_) (fun b hb => ?_) hs
  · rw [rankAt_loseRank, if_pos rfl, bankAt_loseRank, if_pos hb]
    exact ⟨fun _ => rfl, fun _ => rfl⟩
  · rw [rankAt_loseRank, if_neg hq]
  · rw [bankAt_loseRank, if_neg hb]

theorem closeWithRank_state_ne (k : BankRecord) (n : Nat) : (k.closeWithRank n).state ≠ .unknown := by
  unfold BankRecord.closeWithRank
  split
  · next h =>
    change k.state ≠ .unknown
    rw [h]
    exact fun h => by cases h
  · exact fun h => by cases h

theorem takeOpportunity_recoveryAgrees {s : State} (hs : RecoveryAgrees s) :
    RecoveryAgrees (takeOpportunity s) := by
  rcases takeOpportunity_cases s with ⟨n, c, hch, hc, e⟩ | ⟨n, a, -, e⟩ | ⟨n, a, -, e⟩ | ⟨-, e⟩ <;>
    rw [e]
  · cases c with
    | openRow b row =>
      have hclosed := closed_of_choose_openRow hch
      refine recoveryAgrees_of_same (s := s) (fun r => ?_) (fun c => ?_) hs
      · rw [rankAt_issue_openRow]
        split <;> rfl
      · rw [bankAt_issue_openRow]
        split
        · next h =>
          rw [h, hclosed]
          exact ⟨fun h => (by cases h), fun h => (by cases h)⟩
        · exact Iff.rfl
    | close b =>
      obtain ⟨row, hopened⟩ := opened_of_choose_close hch
      refine recoveryAgrees_of_same (s := s) (fun _ => rfl) (fun c => ?_) hs
      rw [bankAt_issue_close]
      split
      · next h =>
        rw [h, hopened]
        exact ⟨fun h => (by cases h), fun h => (by cases h)⟩
      · exact Iff.rfl
    | closeRank r =>
      refine recoveryAgrees_of_rank r (fun b hb => ?_) (fun q hq => ?_) (fun b hb => ?_) hs
      · rw [rankAt_issue_closeRank, if_pos rfl, bankAt_issue_closeRank, if_pos hb]
        exact ⟨fun h => (by cases h), fun h => absurd h (closeWithRank_state_ne _ _)⟩
      · rw [rankAt_issue_closeRank, if_neg hq]
      · rw [bankAt_issue_closeRank, if_neg hb]
    | refresh r =>
      refine recoveryAgrees_of_same (s := s) (t := issue n (.refresh r) s) (fun q => ?_)
        (fun _ => Iff.rfl) hs
      rw [rankAt_issue_refresh]
      split <;> rfl
    | read a => cases hc
    | write a => cases hc
  · have hranks : (issue n (.read a) s).ranks = s.ranks := issueRead_keepsParts n a s .ranks (by decide)
    refine recoveryAgrees_of_same (s := s) (fun q => by rw [rankAt, hranks]; rfl) (fun c => ?_) hs
    rw [bankAt_issue_read]
    split <;> exact Iff.rfl
  · have hranks : (issue n (.write a) s).ranks = s.ranks := issueWrite_keepsParts n a s .ranks (by decide)
    refine recoveryAgrees_of_same (s := s) (fun q => by rw [rankAt, hranks]; rfl) (fun c => ?_) hs
    rw [bankAt_issue_write]
    split <;> exact Iff.rfl
  · exact hs

theorem recoveryAgrees_of_initial {s : State} (hrank : ∀ r, (rankAt s r).recoveryNeeded = true)
    (hbank : ∀ b, bankAt s b = .initial) : RecoveryAgrees s := by
  intro b
  rw [hrank, hbank]
  exact ⟨fun _ => rfl, fun _ => rfl⟩

theorem rankAt_softResetCommand (s : State) (r : Rank) :
    ∃ i, rankAt (softResetCommand s) r = { RankRecord.initial with interval := i } :=
  ⟨_, PerRank.get_tabulate _ r⟩

theorem modifyRank_recoveryAgrees (r : Rank) (f : RankRecord → RankRecord) (s : State)
    (hf : ∀ k : RankRecord, (f k).recoveryNeeded = k.recoveryNeeded) (hs : RecoveryAgrees s) :
    RecoveryAgrees (modifyRank r f s) := by
  refine recoveryAgrees_of_same (s := s) (fun q => ?_) (fun _ => Iff.rfl) hs
  rw [rankAt_modifyRank]
  split
  · exact hf _
  · rfl

theorem recoveryAgrees_stable : Stable RecoveryAgrees where
  pending _ hs := hs
  host _ hs := hs
  opportunity := takeOpportunity_recoveryAgrees
  tclk {s} hs := recoveryAgrees_of_same (s := s) (fun r => by rw [passTclk_rankAt]; rfl)
    (fun b => by rw [passTclk_bankAt]; exact Iff.rfl) hs
  command {c} hc s hs := by
    cases hsets : SetsBanks c with
    | false =>
      exact recoveryAgrees_of_same (fun r => (after_ranksKept hc hsets s r).recovery)
        (fun b => (after_aged hc hsets s b).unknown) hs
    | true =>
      cases c
      case powerOnReset =>
        exact recoveryAgrees_of_initial
          (fun r => congrArg RankRecord.recoveryNeeded (rankAt_reset r)) bankAt_reset
      case softReset =>
        refine recoveryAgrees_of_initial (fun r => ?_) (bankAt_softResetCommand s)
        obtain ⟨i, h⟩ := rankAt_softResetCommand s r
        exact congrArg RankRecord.recoveryNeeded h
      case targetAlert => exact targetAlert_of_loseRank loseRank_recoveryAgrees recoveryAgrees_dependsOn hs
      case geometryWrite be v =>
        exact geometryWrite_of_loseRank loseRank_recoveryAgrees recoveryAgrees_dependsOn
          (fun _ s => modifyRank_recoveryAgrees .r1 _ s fun _ => rfl) be v hs
      all_goals cases hsets

/-- Settles O9: a bank becomes UNKNOWN only where recovery needed is set, and CLOSE_RANK leaves none. -/
theorem stepKeepsRecoveryNeeded : Obligations.StepKeepsRecoveryNeeded := fun _ _ =>
  recoveryAgrees_stable.step

end Sys2Proof.Machine
end

/-!
The write phase list. A bank's write phases outstanding are its entries of the list, which a WRITE appends
to and the end of a write data phase takes the head of. The phases are spaced because a WRITE issues only once
the data lane hold, which no entry of the list outlasts, ends with its own latency (R79).
-/
section

namespace Sys2Proof.Machine

/-! ## A bank's write phases outstanding (R50, R135) -/

theorem writePhasesCounted_of_same {s t : State} (hlist : t.reads.writePhases = s.reads.writePhases)
    (hbank : ∀ b, (bankAt t b).writePhases = (bankAt s b).writePhases) (hs : WritePhasesCounted s) :
    WritePhasesCounted t := by
  intro b
  rw [hbank, hlist]
  exact hs b

theorem writePhasesCounted_dependsOn : DependsOn [.banks, .writePhases] WritePhasesCounted := by
  intro s t h hs
  refine writePhasesCounted_of_same (h .writePhases (by decide)) (fun b => ?_) hs
  rw [bankAt_of_banks (h .banks (by decide))]

theorem writePhasesCounted_of_initial {s : State} (hlist : s.reads.writePhases = [])
    (hbank : ∀ b, bankAt s b = .initial) : WritePhasesCounted s := by
  intro b
  rw [hbank, hlist]
  rfl

/-- A change of one bank's record that leaves its write phases. -/
theorem modifyBank_writePhasesCounted {f : BankRecord → BankRecord}
    (hf : ∀ k : BankRecord, (f k).writePhases = k.writePhases) (c : BankAddr) {s : State}
    (hs : WritePhasesCounted s) : WritePhasesCounted (modifyBank c f s) := by
  refine writePhasesCounted_of_same (s := s) rfl (fun b => ?_) hs
  rw [bankAt_modifyBank]
  split
  · exact hf _
  · rfl

theorem loseRank_writePhasesCounted (r : Rank) (s : State) (hs : WritePhasesCounted s) :
    WritePhasesCounted (loseRank r s) := by
  refine writePhasesCounted_of_same (s := s) rfl (fun b => ?_) hs
  rw [bankAt_loseRank]
  split <;> rfl

theorem expireAccessReady_writePhases (k : BankRecord) :
    k.expireAccessReady.writePhases = k.writePhases := by
  unfold BankRecord.expireAccessReady
  split <;> rfl

theorem expireCloseTime_writePhases (k : BankRecord) : k.expireCloseTime.writePhases = k.writePhases := by
  unfold BankRecord.expireCloseTime
  split <;> rfl

theorem closeWithRank_writePhases (k : BankRecord) (n : Nat) :
    (k.closeWithRank n).writePhases = k.writePhases := by
  unfold BankRecord.closeWithRank
  split <;> rfl

theorem takeWritePhaseEnd_writePhasesCounted {p : WritePhase} {rest : List WritePhase} {s : State}
    (hlist : s.reads.writePhases = p :: rest) (hs : WritePhasesCounted s) :
    WritePhasesCounted (takeWritePhaseEnd p rest s) := by
  intro b
  have hb := hs b
  rw [hlist, List.countP_cons] at hb
  change (bankAt (modifyBank p.addr.bank (fun k => k.writePhaseEnded (tclk s .writeRecovery))
    { s with reads.writePhases := rest }) b).writePhases = rest.countP _
  rw [bankAt_modifyBank]
  change (if b = p.addr.bank then (bankAt s b).writePhaseEnded (tclk s .writeRecovery)
    else bankAt s b).writePhases = _
  by_cases h : b = p.addr.bank
  · rw [if_pos h]
    change (bankAt s b).writePhases - 1 = _
    rw [hb]
    simp [h]
  · rw [if_neg h, hb]
    simp [Ne.symm h]

theorem writeDataPhaseEnd_writePhasesCounted {s : State} (hs : WritePhasesCounted s) :
    WritePhasesCounted (writeDataPhaseEnd s) := by
  unfold writeDataPhaseEnd
  split
  · next p rest hlist =>
    split
    · exact takeWritePhaseEnd_writePhasesCounted hlist hs
    · exact hs
  · exact hs

theorem issueWrite_writePhasesCounted (n : Nat) (a : Access) {s : State} (hs : WritePhasesCounted s) :
    WritePhasesCounted (issue n (.write a) s) := by
  intro b
  have hlist : (issue n (.write a) s).reads.writePhases =
      s.reads.writePhases ++ [a.writePhase (tclk s .writeLatency + Config.dataPhase)] := by
    change (recordRung n (driveBus _ (issueWrite a s))).reads.writePhases = _
    rw [issueWrite_eq]
    rfl
  rw [bankAt_issue_write, hlist, List.countP_append, ← hs b]
  by_cases h : b = a.addr.bank
  · simp [h, BankRecord.writeIssued, Access.writePhase]
  · simp [h, Access.writePhase, Ne.symm h]

theorem takeOpportunity_writePhasesCounted {s : State} (hs : WritePhasesCounted s) :
    WritePhasesCounted (takeOpportunity s) := by
  rcases takeOpportunity_cases s with ⟨n, c, -, hc, e⟩ | ⟨n, a, -, e⟩ | ⟨n, a, -, e⟩ | ⟨-, e⟩ <;>
    rw [e]
  · refine writePhasesCounted_of_same (issue_keepsParts hc n s .writePhases (by decide)) (fun b => ?_) hs
    cases c with
    | openRow c row =>
      rw [bankAt_issue_openRow]
      split <;> rfl
    | close c =>
      rw [bankAt_issue_close]
      split <;> rfl
    | closeRank r =>
      rw [bankAt_issue_closeRank]
      split
      · exact closeWithRank_writePhases _ _
      · rfl
    | refresh r => rfl
    | read a => cases hc
    | write a => cases hc
  · refine writePhasesCounted_of_same (issueRead_keepsParts n a s .writePhases (by decide)) (fun b => ?_) hs
    rw [bankAt_issue_read]
    split <;> rfl
  · exact issueWrite_writePhasesCounted n a hs
  · exact hs

theorem passTclk_writePhasesCounted {s : State} (hs : WritePhasesCounted s) :
    WritePhasesCounted (passTclk s) := by
  intro b
  rw [passTclk_bankAt]
  change (bankAt s b).writePhases = (s.reads.writePhases.map WritePhase.count).countP _
  rw [List.countP_map, hs b]
  rfl

theorem writePhasesCounted_stable : Stable WritePhasesCounted := by
  refine writePhasesCounted_dependsOn.stable (by decide) (fun {c} hc havoids {s} hs => ?_)
    takeOpportunity_writePhasesCounted passTclk_writePhasesCounted
  cases c
  case powerOnReset => exact writePhasesCounted_of_initial rfl bankAt_reset
  case softReset => exact writePhasesCounted_of_initial rfl (bankAt_softResetCommand s)
  case targetAlert =>
    exact targetAlert_of_loseRank loseRank_writePhasesCounted writePhasesCounted_dependsOn hs
  case geometryWrite be v =>
    exact geometryWrite_of_loseRank loseRank_writePhasesCounted writePhasesCounted_dependsOn
      (fun _ _ h => h) be v hs
  case accessReadyExpiry c => exact modifyBank_writePhasesCounted expireAccessReady_writePhases c hs
  case closeTimeExpiry c => exact modifyBank_writePhasesCounted expireCloseTime_writePhases c hs
  case restoreExpiry c =>
    exact modifyBank_writePhasesCounted (f := BankRecord.expireRestore) (fun _ => rfl) c hs
  case writeRecoveryExpiry c =>
    exact modifyBank_writePhasesCounted (f := BankRecord.expireWriteRecovery) (fun _ => rfl) c hs
  case readCloseWaitExpiry c =>
    exact modifyBank_writePhasesCounted (f := BankRecord.expireReadCloseWait) (fun _ => rfl) c hs
  case writeDataPhaseEnd => exact writeDataPhaseEnd_writePhasesCounted hs
  all_goals cases havoids

/-! ## Holds -/

theorem remaining_countHold (t : Timer) : (countHold t).remaining = t.remaining - 1 := by
  rw [countHold, Timer.remaining_count, Timer.remaining_expire]

/-- A start or an expiry of a hold shortens no hold. -/
theorem remaining_le_modify {f : Timer → Timer} (hf : ∀ t : Timer, t.remaining ≤ (f t).remaining)
    (h : Holds) (i j : HoldId) : (h.get j).remaining ≤ ((h.modify i f).get j).remaining := by
  rw [Holds.get_modify]
  split
  · exact hf _
  · exact le_rfl

theorem remaining_le_extend (v : Nat) (t : Timer) : t.remaining ≤ (t.extend v).remaining :=
  le_max_left _ _

theorem dataLane_startAccess (h : Holds) (b : BankAddr) (setGap rankGap switchGap lane : Nat) :
    (h.startAccess b setGap rankGap switchGap lane).get .dataLane = (h.get .dataLane).extend lane := by
  simp [Holds.startAccess, Holds.get_modify]

/-- A READ holds the data lanes to the end of its data phase, and a WRITE to the end of its own. -/
theorem dataLane_startReadHolds (b : BankAddr) (s : State) :
    (startReadHolds b s).holds.get .dataLane =
      (s.holds.get .dataLane).extend (tclk s .readLatency + Config.dataPhase) := by
  rw [startReadHolds_eq]
  simp only [Holds.get_modify, reduceCtorEq, if_false, dataLane_startAccess]

theorem dataLane_startWriteHolds (b : BankAddr) (s : State) :
    (startWriteHolds b s).holds.get .dataLane =
      (s.holds.get .dataLane).extend (tclk s .writeLatency + Config.dataPhase) := by
  rw [startWriteHolds_eq]
  simp only [Holds.get_modify, reduceCtorEq, if_false, dataLane_startAccess]

/-! ## The write phases are spaced (R79, R135) -/

/-- The same list under a data lane hold as long or longer. -/
theorem writePhasesSpaced_of_le {s t : State} (hlist : t.reads.writePhases = s.reads.writePhases)
    (hhold : (s.holds.get .dataLane).remaining ≤ (t.holds.get .dataLane).remaining)
    (hs : WritePhasesSpaced s) : WritePhasesSpaced t := by
  obtain ⟨hpair, hmem⟩ := hs
  rw [WritePhasesSpaced, hlist]
  exact ⟨hpair, fun p hp => ⟨(hmem p hp).1, (hmem p hp).2.trans hhold⟩⟩

theorem writePhasesSpaced_dependsOn : DependsOn [.writePhases, .holds] WritePhasesSpaced := by
  intro s t h hs
  have hholds : t.holds = s.holds := h .holds (by decide)
  exact writePhasesSpaced_of_le (h .writePhases (by decide)) (le_of_eq (by rw [hholds])) hs

theorem writePhasesSpaced_of_nil {s : State} (h : s.reads.writePhases = []) : WritePhasesSpaced s := by
  rw [WritePhasesSpaced, h]
  exact ⟨List.Pairwise.nil, fun p hp => absurd hp List.not_mem_nil⟩

theorem takeWritePhaseEnd_writePhasesSpaced {p : WritePhase} {rest : List WritePhase} {s : State}
    (hlist : s.reads.writePhases = p :: rest) (hs : WritePhasesSpaced s) :
    WritePhasesSpaced (takeWritePhaseEnd p rest s) := by
  obtain ⟨hpair, hmem⟩ := hs
  rw [hlist] at hpair hmem
  exact ⟨hpair.of_cons, fun q hq => hmem q (List.mem_cons_of_mem p hq)⟩

theorem writeDataPhaseEnd_writePhasesSpaced {s : State} (hs : WritePhasesSpaced s) :
    WritePhasesSpaced (writeDataPhaseEnd s) := by
  unfold writeDataPhaseEnd
  split
  · next p rest hlist =>
    split
    · exact takeWritePhaseEnd_writePhasesSpaced hlist hs
    · exact hs
  · exact hs

theorem after_writePhasesSpaced {c : Instr} (hc : Simple c = true) {s : State} (hs : WritePhasesSpaced s) :
    WritePhasesSpaced (after s c) := by
  cases havoids : Avoids c [.writePhases, .holds] with
  | true => exact writePhasesSpaced_dependsOn.after hc havoids hs
  | false =>
    cases c
    case powerOnReset => exact writePhasesSpaced_of_nil rfl
    case softReset => exact writePhasesSpaced_of_nil rfl
    case holdExpiry i =>
      exact writePhasesSpaced_of_le (s := s) rfl
        (remaining_le_modify (fun t => (Timer.remaining_expire t).ge) s.holds i .dataLane) hs
    case writeDataPhaseEnd => exact writeDataPhaseEnd_writePhasesSpaced hs
    all_goals cases havoids

/-- A WRITE's data phase starts where every entry of the list has ended, and ends within 67 tclk. -/
theorem issueWrite_writePhasesSpaced (n : Nat) (a : Access) {s : State}
    (hfree : lanesFree s (tclk s .writeLatency) = true) (hlatency : tclk s .writeLatency ≤ 63)
    (hs : WritePhasesSpaced s) : WritePhasesSpaced (issue n (.write a) s) := by
  obtain ⟨hpair, hmem⟩ := hs
  have hfree : (s.holds.get .dataLane).remaining ≤ tclk s .writeLatency := of_decide_eq_true hfree
  have hhold : ((issue n (.write a) s).holds.get .dataLane).remaining =
      max (s.holds.get .dataLane).remaining (tclk s .writeLatency + 4) := by
    have hholds : (issue n (.write a) s).holds = (startWriteHolds a.addr.bank s).holds := by
      change (recordRung n (driveBus _ (issueWrite a s))).holds = _
      rw [issueWrite_eq]
      rfl
    rw [hholds, dataLane_startWriteHolds]
    rfl
  have hlist : (issue n (.write a) s).reads.writePhases =
      s.reads.writePhases ++ [a.writePhase (tclk s .writeLatency + 4)] := by
    change (recordRung n (driveBus _ (issueWrite a s))).reads.writePhases = _
    rw [issueWrite_eq]
    rfl
  rw [WritePhasesSpaced, hlist, hhold]
  refine ⟨List.pairwise_append.mpr ⟨hpair, List.pairwise_singleton _ _, fun p hp q hq => ?_⟩,
    fun p hp => ?_⟩
  · rw [List.mem_singleton.mp hq]
    have hold := (hmem p hp).2
    change p.remaining + 4 ≤ tclk s .writeLatency + 4
    omega
  · rcases List.mem_append.mp hp with hp | hp
    · exact ⟨(hmem p hp).1, le_max_of_le_left (hmem p hp).2⟩
    · rw [List.mem_singleton.mp hp]
      change tclk s .writeLatency + 4 ≤ 67 ∧ tclk s .writeLatency + 4 ≤ _
      omega

theorem writeLatency_le_of_valid {s : State} (h : WorkingSetValid s) : tclk s .writeLatency ≤ 63 := by
  obtain ⟨hrange, -⟩ := h .writeLatency
  simp only [inRange, Bool.and_eq_true, decide_eq_true_eq] at hrange
  exact hrange.2

theorem issue_writePhasesSpaced {c : ArrayCommand} (hc : c.isAccess = false) (n : Nat) {s : State}
    (hs : WritePhasesSpaced s) : WritePhasesSpaced (issue n c s) := by
  refine writePhasesSpaced_of_le (issue_keepsParts hc n s .writePhases (by decide)) ?_ hs
  cases c with
  | openRow b row => exact remaining_le_modify (remaining_le_extend _) s.holds _ .dataLane
  | close b => exact le_rfl
  | closeRank r => exact le_rfl
  | refresh r => exact le_rfl
  | read a => cases hc
  | write a => cases hc

theorem takeOpportunity_writePhasesSpaced {s : State} (hvalid : WorkingSetValid s)
    (hs : WritePhasesSpaced s) : WritePhasesSpaced (takeOpportunity s) := by
  rcases takeOpportunity_cases s with ⟨n, c, -, hc, e⟩ | ⟨n, a, -, e⟩ | ⟨n, a, hch, e⟩ | ⟨-, e⟩ <;>
    rw [e]
  · exact issue_writePhasesSpaced hc n hs
  · refine writePhasesSpaced_of_le (issueRead_keepsParts n a s .writePhases (by decide)) ?_ hs
    have hholds : (issue n (.read a) s).holds = (startReadHolds a.addr.bank s).holds := by
      change (recordRung n (driveBus _ (issueRead a s))).holds = _
      rw [issueRead_eq]
      rfl
    rw [hholds, dataLane_startReadHolds]
    exact remaining_le_extend _ _
  · obtain ⟨-, -, -, heligible, -⟩ := choose_some hch
    simp only [eligible, spacingAllowsWrite, Bool.and_eq_true] at heligible
    obtain ⟨-, -, hfree⟩ := heligible
    exact issueWrite_writePhasesSpaced n a hfree (writeLatency_le_of_valid hvalid) hs
  · exact hs

/-- Spaced, and no entry has run out. -/
def WritePhasesLive (s : State) : Prop :=
  WritePhasesSpaced s ∧ ∀ p ∈ s.reads.writePhases, 1 ≤ p.remaining

theorem writePhasesLive_dependsOn : DependsOn [.writePhases, .holds] WritePhasesLive := by
  intro s t h hs
  have hlist : t.reads.writePhases = s.reads.writePhases := h .writePhases (by decide)
  exact ⟨writePhasesSpaced_dependsOn s t h hs.1, hlist ▸ hs.2⟩

/-- Once a head that has run out is gone, no entry has run out. -/
theorem writeDataPhaseEnd_live {s : State} (hs : WritePhasesSpaced s) :
    WritePhasesLive (writeDataPhaseEnd s) := by
  refine ⟨writeDataPhaseEnd_writePhasesSpaced hs, ?_⟩
  obtain ⟨hpair, -⟩ := hs
  unfold writeDataPhaseEnd
  split
  · next p rest hlist =>
    rw [hlist] at hpair
    have hrest (q : WritePhase) (hq : q ∈ rest) : 1 ≤ q.remaining := by
      have := List.rel_of_pairwise_cons hpair hq
      omega
    split
    · exact hrest
    · next hp =>
      rw [hlist]
      intro q hq
      rcases List.mem_cons.mp hq with rfl | hq
      · omega
      · exact hrest q hq
  · next hlist =>
    rw [hlist]
    exact fun q hq => absurd hq List.not_mem_nil

theorem takeArrivals_live {s : State} (hs : WritePhasesLive s) : WritePhasesLive (takeArrivals s) := by
  have hrepeat (n : Nat) {s : State} (hs : WritePhasesLive s) : WritePhasesLive (repeatArrivals n s) := by
    induction n generalizing s with
    | zero => exact hs
    | succ n ih => exact ih (writePhasesLive_dependsOn.after (c := .dataArrival) rfl rfl hs)
  exact hrepeat _ hs

theorem settleOverdue_live {s : State} (hs : WritePhasesSpaced s) : WritePhasesLive (settleOverdue s) := by
  have hexpired : WritePhasesSpaced (expireTable s) := hs
  have hended := takeArrivals_live (writeDataPhaseEnd_live hexpired)
  have hdeadline := writePhasesLive_dependsOn.after (c := .deadlineExpiry) rfl rfl hended
  have hinterval0 := writePhasesLive_dependsOn.after (c := .intervalExpiry .r0) rfl rfl hdeadline
  have hinterval1 := writePhasesLive_dependsOn.after (c := .intervalExpiry .r1) rfl rfl hinterval0
  have hpause := writePhasesLive_dependsOn.after (c := .pauseExpiry) rfl rfl hinterval1
  exact writePhasesLive_dependsOn.after (c := .settlePeriodEnd) rfl rfl hpause

/-- A tclk takes 1 from every entry and from the hold; none of them is at 0 but the hold of an empty
list. -/
theorem passTclk_writePhasesSpaced {s : State} (hs : WritePhasesLive s) :
    WritePhasesSpaced (passTclk s) := by
  obtain ⟨⟨hpair, hmem⟩, hlive⟩ := hs
  refine ⟨List.pairwise_map.mpr (hpair.imp_of_mem fun {p q} hp _ h => ?_), fun p hp => ?_⟩
  · have := hlive p hp
    change p.remaining - 1 + 4 ≤ q.remaining - 1
    omega
  · obtain ⟨q, hq, rfl⟩ := List.mem_map.mp hp
    have hhold : ((passTclk s).holds.get .dataLane).remaining = (s.holds.get .dataLane).remaining - 1 :=
      remaining_countHold _
    have := hmem q hq
    rw [hhold]
    change q.remaining - 1 ≤ 67 ∧ q.remaining - 1 ≤ _
    omega

/-! ## Every step -/

/-- What every command but REGISTER_WRITE does, a register write does too. -/
theorem after_of_simple {P : State → Prop} {s : State} (hsimple : ∀ c, Simple c = true → P (after s c))
    (hhost : ∀ x, P { s with host := x }) (hopp : P (commandOpportunity s)) (c : Instr) :
    P (after s c) := by
  cases hc : Simple c with
  | true => exact hsimple c hc
  | false =>
    cases c with
    | commandOpportunity => exact hopp
    | registerWrite a =>
      rcases registerWrite_cases a s with ⟨c, hc, e⟩ | ⟨x, e⟩ <;> rw [e]
      · exact hsimple c hc
      · exact hhost x
    | _ => cases hc

theorem step_writePhasesSpaced {s t : State} (hvalid : WorkingSetValid s) (hs : WritePhasesSpaced s)
    (ht : step s = .next t) : WritePhasesSpaced t := by
  unfold step at ht
  split at ht
  · next c rest _ =>
    rw [← after_of_exec ht]
    exact after_of_simple (s := s.withPending rest) (fun _ hc => after_writePhasesSpaced hc hs) (fun _ => hs)
      (passTclk_writePhasesSpaced (settleOverdue_live (takeOpportunity_writePhasesSpaced hvalid hs))) c
  · cases ht
    exact hs

/-- Settles O11: a WRITE adds a phase to the list and to its bank's count, and its end removes both. -/
theorem stepKeepsWritePhasesCounted : Obligations.StepKeepsWritePhasesCounted :=
  ⟨fun _ _ => writePhasesCounted_stable.step, fun _ _ => step_writePhasesSpaced⟩

end Sys2Proof.Machine
end

/-!
The capacities of the lists and the ranges of the counts, a law of the state for each (R15, R38, R41, R53, R60,
R99, R100, R125, R135, R140, R167).
-/
section

namespace Sys2Proof.Machine

/-! ## The intake queue, the in-flight list, the fail log and the completion FIFO -/

theorem queueBounded_stable : Stable fun s => s.intake.queue.length ≤ 32 where
  pending _ hs := hs
  host _ hs := hs
  opportunity {s} hs := by
    rw [← length_seqs] at hs ⊢
    rwa [seqs_takeOpportunity]
  tclk hs := hs
  command {c} hc s hs := by
    rw [← length_seqs] at hs ⊢
    rcases after_seqs hc s with ⟨h, -⟩ | ⟨h, -⟩ | ⟨hroom, h, -⟩ | h <;> rw [h]
    · exact hs
    · rw [List.length_tail]
      omega
    · rw [List.length_append, length_seqs]
      exact hroom
    · exact Nat.zero_le 32

theorem inFlightBounded_dependsOn : DependsOn [.inFlight] fun s => s.reads.inFlight.length ≤ 8 := by
  intro s t h hs
  have hlist : t.reads.inFlight = s.reads.inFlight := h .inFlight (by decide)
  rwa [hlist]

theorem takeArrival_inFlightBounded (x : Burst) {s : State} (hs : s.reads.inFlight.length ≤ 8) :
    (takeArrival x s).reads.inFlight.length ≤ 8 := by
  rcases takeArrival_reads x s with ⟨-, hsame⟩ | ⟨e, rest, hlist, heq⟩
  · rwa [hsame]
  · obtain ⟨hrest, -⟩ := matchArrival_reads e rest x s
    rw [heq, hrest]
    rw [hlist, List.length_cons] at hs
    omega

theorem takeOpportunity_inFlightBounded {s : State} (hs : s.reads.inFlight.length ≤ 8) :
    (takeOpportunity s).reads.inFlight.length ≤ 8 := by
  rcases takeOpportunity_cases s with ⟨n, c, -, hc, e⟩ | ⟨n, a, hch, e⟩ | ⟨n, a, -, e⟩ | ⟨-, e⟩ <;>
      rw [e]
  · have hkept := issue_keepsParts hc n s .inFlight (by decide)
    exact inFlightBounded_dependsOn s _ (fun p hp => by rw [List.mem_singleton.mp hp]; exact hkept) hs
  · obtain ⟨-, -, -, heligible, -⟩ := choose_some hch
    simp only [eligible, spacingAllowsRead, Bool.and_eq_true, decide_eq_true_eq] at heligible
    obtain ⟨-, -, hroom⟩ := heligible
    have hroom : s.reads.inFlight.length < 8 := hroom
    change (recordRung n (driveBus _ (issueRead a s))).reads.inFlight.length ≤ 8
    rw [issueRead_eq]
    change (s.reads.inFlight ++ [_]).length ≤ 8
    rw [List.length_append]
    exact hroom
  · have hkept := issueWrite_keepsParts n a s .inFlight (by decide)
    exact inFlightBounded_dependsOn s _ (fun p hp => by rw [List.mem_singleton.mp hp]; exact hkept) hs
  · exact hs

theorem inFlightBounded_stable : Stable fun s => s.reads.inFlight.length ≤ 8 := by
  refine inFlightBounded_dependsOn.stable (by decide) (fun {c} hc hwrites s hs => ?_)
    takeOpportunity_inFlightBounded (fun {s} hs => (List.length_map (as := s.reads.inFlight) _).trans_le hs)
  cases c
  case powerOnReset => exact Nat.zero_le 8
  case softReset => exact Nat.zero_le 8
  case dataArrival =>
    change (dataArrival s).reads.inFlight.length ≤ 8
    rcases dataArrival_cases s with h | ⟨x, u, hu, -, h⟩
    · rwa [show (dataArrival s).reads.inFlight = _ from h .inFlight List.not_mem_nil]
    · rw [h]
      refine takeArrival_inFlightBounded x ?_
      rwa [show u.reads.inFlight = _ from hu .inFlight List.not_mem_nil]
  case deadlineExpiry =>
    change (deadlineExpiry s).reads.inFlight.length ≤ 8
    rcases deadlineExpiry_cases s with h | h <;> rw [h]
    · obtain ⟨hnil, -⟩ := takeDeadline_reads s
      rw [hnil]
      exact Nat.zero_le 8
    · exact hs
  all_goals cases hwrites

theorem recordsBounded_dependsOn : DependsOn [.records] fun s => s.failLog.records.length ≤ 32 := by
  intro s t h hs
  have hlist : t.failLog.records = s.failLog.records := h .records (by decide)
  rwa [hlist]

theorem takeOffer_recordsBounded (o : Offer) {s : State} (hs : s.failLog.records.length ≤ 32) :
    (takeOffer o s).failLog.records.length ≤ 32 := by
  unfold takeOffer
  split
  · exact (List.length_map (as := s.failLog.records) _).trans_le hs
  · split
    · next hroom =>
      have hroom : s.failLog.records.length < 32 := hroom
      change (s.failLog.records ++ [o.newRecord]).length ≤ 32
      rw [List.length_append]
      exact hroom
    · exact hs

theorem recordsBounded_stable : Stable fun s => s.failLog.records.length ≤ 32 := by
  refine recordsBounded_dependsOn.stable (by decide) (fun {c} hc hwrites s hs => ?_) (fun {s} hs => ?_)
    (fun hs => hs)
  · cases c
    case powerOnReset => exact Nat.zero_le 32
    case failClear => exact Nat.zero_le 32
    case failReleaseOldest =>
      change (failReleaseCommand s).failLog.records.length ≤ 32
      cases h : s.failLog.records with
      | nil =>
        rw [failReleaseCommand_nil h]
        exact hs
      | cons r rest =>
        rw [failReleaseCommand_cons h]
        rw [h, List.length_cons] at hs
        exact Nat.le_of_succ_le hs
    case failOffer =>
      change (failOffer s).failLog.records.length ≤ 32
      unfold failOffer
      split
      · exact takeOffer_recordsBounded _ hs
      · exact hs
    all_goals cases hwrites
  · obtain ⟨-, -, -, -, hlog, -⟩ := takeOpportunity_keeps s
    rwa [hlog]

theorem completionsBounded_dependsOn :
    DependsOn [.completions] fun s => s.run.completions.length ≤ 16 := by
  intro s t h hs
  have hlist : t.run.completions = s.run.completions := h .completions (by decide)
  rwa [hlist]

theorem retireHead_completions (d : Descriptor) (rest : List Descriptor) (s : State) :
    (retireHead d rest s).run.completions = s.run.completions ++ [d.record] := by
  unfold retireHead
  dsimp only
  split <;> rfl

theorem retirement_completionsBounded {s : State} (hs : s.run.completions.length ≤ 16) :
    (retirement s).run.completions.length ≤ 16 := by
  unfold retirement
  split
  · split
    · next hmay =>
      obtain ⟨-, hroom, -⟩ := hmay
      have hroom : s.run.completions.length < 16 := hroom
      rw [retireHead_completions, List.length_append]
      exact hroom
    · exact hs
  · exact hs

theorem popCommand_completionsBounded {s : State} (hs : s.run.completions.length ≤ 16) :
    (popCommand s).run.completions.length ≤ 16 := by
  unfold popCommand
  dsimp only
  split
  · next rest h =>
    have h : s.run.completions = _ :: rest := h
    rw [h, List.length_cons] at hs
    exact Nat.le_of_succ_le hs
  · exact hs

theorem completionsBounded_stable : Stable fun s => s.run.completions.length ≤ 16 := by
  refine completionsBounded_dependsOn.stable (by decide) (fun {c} hc hwrites s hs => ?_) (fun {s} hs => ?_)
    (fun hs => hs)
  · cases c
    case powerOnReset => exact Nat.zero_le 16
    case softReset => exact Nat.zero_le 16
    case popCompletion => exact popCommand_completionsBounded hs
    case retirement => exact retirement_completionsBounded hs
    all_goals cases hwrites
  · rcases takeOpportunity_cases s with ⟨n, c, -, hc, e⟩ | ⟨n, a, -, e⟩ | ⟨n, a, -, e⟩ | ⟨-, e⟩ <;>
      rw [e]
    · rwa [show (issue n c s).run.completions = _ from issue_keepsParts hc n s .completions (by decide)]
    · rwa [show (issue n (.read a) s).run.completions = _ from
        issueRead_keepsParts n a s .completions (by decide)]
    · rwa [show (issue n (.write a) s).run.completions = _ from
        issueWrite_keepsParts n a s .completions (by decide)]
    · exact hs

/-! ## The issue window (R38, R41) -/

/-- At most 16 accesses, each bypassed at most 63 times. -/
def WindowBounded (s : State) : Prop := s.window.length ≤ 16 ∧ ∀ a ∈ s.window, a.bypass ≤ 63

theorem windowBounded_of_same {s t : State} (h : t.window = s.window) (hs : WindowBounded s) :
    WindowBounded t := by
  rwa [WindowBounded, h]

theorem windowBounded_of_nil {s : State} (h : s.window = []) : WindowBounded s := by
  rw [WindowBounded, h]
  exact ⟨Nat.zero_le 16, fun a ha => absurd ha List.not_mem_nil⟩

theorem windowBounded_dependsOn : DependsOn [.window] WindowBounded :=
  fun _ _ h hs => windowBounded_of_same (h .window (by decide)) hs

/-- Accesses not bypassed yet join a window that has room for them. -/
theorem windowBounded_of_append {s t : State} {as : List Access} (h : t.window = s.window ++ as)
    (hroom : s.window.length + as.length ≤ 16) (hnew : ∀ a ∈ as, a.bypass = 0) (hs : WindowBounded s) :
    WindowBounded t := by
  obtain ⟨-, hbypass⟩ := hs
  rw [WindowBounded, h]
  refine ⟨(List.length_append).trans_le hroom, fun a ha => ?_⟩
  rcases List.mem_append.mp ha with ha | ha
  · exact hbypass a ha
  · rw [hnew a ha]
    exact Nat.zero_le 63

theorem burstAccesses_bypass (s : State) (q : Seq) (r : Region) (row col : Nat) :
    ∀ a ∈ burstAccesses s q r row col, a.bypass = 0 := by
  unfold burstAccesses
  cases r.kind <;> simp [makeAccess]

theorem placeBurst_windowBounded (q : Seq) (r : Region) (row col : Nat) {s : State}
    (hs : WindowBounded s) : WindowBounded (placeBurst q r row col s) := by
  unfold placeBurst
  dsimp only
  split
  · next hroom =>
    have hplaced : WindowBounded (place (burstAccesses s q r row col) s) :=
      windowBounded_of_append rfl hroom (burstAccesses_bypass s q r row col) hs
    split
    · exact hplaced
    · exact windowBounded_of_same (examine_keeps _ .window (by decide)) hplaced
  · exact hs

theorem accessPlacement_windowBounded {s : State} (hs : WindowBounded s) :
    WindowBounded (accessPlacement s) := by
  unfold accessPlacement
  split
  · split
    · split
      · exact placeBurst_windowBounded _ _ _ _ hs
      · exact hs
    · exact hs
  · exact hs

theorem sweepReadPlacement_windowBounded {s : State} (hs : WindowBounded s) :
    WindowBounded (sweepReadPlacement s) := by
  unfold sweepReadPlacement
  split
  · next w _ =>
    split
    · next hmay =>
      obtain ⟨-, hroom⟩ := hmay
      exact windowBounded_of_append (as := [sweepAccess s w]) rfl hroom
        (fun a ha => by rw [List.mem_singleton.mp ha]; rfl) hs
    · exact hs
  · exact hs

theorem takeFromWindow_bypass (counts : Access → Bool) (a : Access) (seen : List BankAddr)
    {l : List Access} (hl : ∀ x ∈ l, x.bypass ≤ 63) :
    ∀ x ∈ takeFromWindow counts a seen l, x.bypass ≤ 63 := by
  induction l generalizing seen with
  | nil => exact hl
  | cons y l ih =>
    obtain ⟨hy, hl⟩ := List.forall_mem_cons.mp hl
    unfold takeFromWindow
    split
    · exact hl
    · refine List.forall_mem_cons.mpr ⟨?_, ih _ hl⟩
      split
      · exact Nat.min_le_right _ _
      · exact hy

/-- The issued access leaves the window; the counts of those it passed stop at 63. -/
theorem windowBounded_of_take {s t : State} {counts : Access → Bool} {a : Access}
    (h : t.window = takeFromWindow counts a [] s.window) (ha : a ∈ s.window) (hs : WindowBounded s) :
    WindowBounded t := by
  obtain ⟨hlength, hbypass⟩ := hs
  rw [WindowBounded, h]
  refine ⟨?_, takeFromWindow_bypass _ _ _ hbypass⟩
  have := length_takeFromWindow counts a [] s.window ha
  omega

theorem issueRead_window (n : Nat) (a : Access) (s : State) :
    (issue n (.read a) s).window = takeFromWindow (passedOver s a) a [] s.window := by
  change (recordRung n (driveBus _ (issueRead a s))).window = _
  rw [issueRead_eq]
  rfl

theorem issueWrite_window (n : Nat) (a : Access) (s : State) :
    (issue n (.write a) s).window = takeFromWindow (passedOver s a) a [] s.window := by
  change (recordRung n (driveBus _ (issueWrite a s))).window = _
  rw [issueWrite_eq]
  rfl

theorem takeOpportunity_windowBounded {s : State} (hs : WindowBounded s) :
    WindowBounded (takeOpportunity s) := by
  rcases takeOpportunity_cases s with ⟨n, c, -, hc, e⟩ | ⟨n, a, hch, e⟩ | ⟨n, a, hch, e⟩ | ⟨-, e⟩ <;>
      rw [e]
  · exact windowBounded_of_same (issue_keepsParts hc n s .window (by decide)) hs
  · exact windowBounded_of_take (issueRead_window n a s) (mem_window_of_choose (.inl hch)) hs
  · exact windowBounded_of_take (issueWrite_window n a s) (mem_window_of_choose (.inr hch)) hs
  · exact hs

theorem enterAborting_window (s : State) : (enterAborting s).window = [] :=
  abortExpander_keeps { s with run.state := .aborting, window := [] } .window (by decide)

theorem windowBounded_stable : Stable WindowBounded := by
  refine windowBounded_dependsOn.stable (by decide) (fun {c} hc hwrites s hs => ?_)
    takeOpportunity_windowBounded (fun hs => hs)
  cases c
  case powerOnReset => exact windowBounded_of_nil rfl
  case softReset => exact windowBounded_of_nil rfl
  case abort =>
    change WindowBounded (abortCommand s)
    unfold abortCommand
    dsimp only
    split
    · exact hs
    · exact hs
    · exact windowBounded_of_nil (enterAborting_window _)
  case accessPlacement => exact accessPlacement_windowBounded hs
  case sweepReadPlacement => exact sweepReadPlacement_windowBounded hs
  all_goals cases hwrites

/-! ## Idle times (R53) -/

def IdleBounded (s : State) : Prop := ∀ b, (bankAt s b).idle ≤ 4095

theorem idleBounded_dependsOn : DependsOn [.banks] IdleBounded := by
  intro s t h hs b
  rw [bankAt_of_banks (h .banks (by decide))]
  exact hs b

/-- Each bank is as it was, or its idle time starts again. -/
theorem idleBounded_of_restart {s t : State}
    (h : ∀ b, bankAt t b = bankAt s b ∨ (bankAt t b).idle = 0) (hs : IdleBounded s) : IdleBounded t := by
  intro b
  rcases h b with h | h <;> rw [h]
  · exact hs b
  · exact Nat.zero_le 4095

theorem closeWithRank_idle (k : BankRecord) (n : Nat) : (k.closeWithRank n).idle = 0 := by
  unfold BankRecord.closeWithRank
  split <;> rfl

theorem loseRank_idleBounded (r : Rank) (s : State) (hs : IdleBounded s) :
    IdleBounded (loseRank r s) := by
  refine idleBounded_of_restart (s := s) (fun b => ?_) hs
  rw [bankAt_loseRank]
  split
  · exact .inr rfl
  · exact .inl rfl

theorem takeOpportunity_idleBounded {s : State} (hs : IdleBounded s) : IdleBounded (takeOpportunity s) := by
  rcases takeOpportunity_cases s with ⟨n, c, -, hc, e⟩ | ⟨n, a, -, e⟩ | ⟨n, a, -, e⟩ | ⟨-, e⟩ <;>
      rw [e]
  · refine idleBounded_of_restart (s := s) (fun b => ?_) hs
    cases c with
    | openRow c row =>
      rw [bankAt_issue_openRow]
      split
      · exact .inr rfl
      · exact .inl rfl
    | close c =>
      rw [bankAt_issue_close]
      split
      · exact .inr rfl
      · exact .inl rfl
    | closeRank r =>
      rw [bankAt_issue_closeRank]
      split
      · exact .inr (closeWithRank_idle _ _)
      · exact .inl rfl
    | refresh r => exact .inl rfl
    | read a => cases hc
    | write a => cases hc
  · refine idleBounded_of_restart (s := s) (fun b => ?_) hs
    rw [bankAt_issue_read]
    split
    · exact .inr rfl
    · exact .inl rfl
  · refine idleBounded_of_restart (s := s) (fun b => ?_) hs
    rw [bankAt_issue_write]
    split
    · exact .inr rfl
    · exact .inl rfl
  · exact hs

theorem idleBounded_of_initial {s : State} (h : ∀ b, bankAt s b = .initial) : IdleBounded s := by
  intro b
  rw [h]
  exact Nat.zero_le 4095

theorem idleBounded_stable : Stable IdleBounded where
  pending _ hs := hs
  host _ hs := hs
  opportunity := takeOpportunity_idleBounded
  tclk {s} hs b := by
    rw [passTclk_bankAt]
    exact (bankAt s b).count_aged.idle (hs b)
  command {c} hc s hs := by
    cases hsets : SetsBanks c with
    | false => exact fun b => (after_aged hc hsets s b).idle (hs b)
    | true =>
      cases c
      case powerOnReset => exact idleBounded_of_initial bankAt_reset
      case softReset => exact idleBounded_of_initial (bankAt_softResetCommand s)
      case targetAlert => exact targetAlert_of_loseRank loseRank_idleBounded idleBounded_dependsOn hs
      case geometryWrite be v =>
        exact geometryWrite_of_loseRank loseRank_idleBounded idleBounded_dependsOn (fun _ _ h => h) be v hs
      all_goals cases hsets

/-! ## Remembered OPENs and refresh debts (R60, R100) -/

/-- At most four ages, none above 255, and a debt of at most 8. -/
structure RankRecord.Bounded (k : RankRecord) : Prop where
  history : k.history.length ≤ 4
  ages : ∀ age ∈ k.history, age ≤ 255
  debt : k.debt ≤ 8

theorem RankRecord.Kept.bounded {k k' : RankRecord} (h : k.Kept k') (hk : k.Bounded) : k'.Bounded where
  history := h.history ▸ hk.history
  ages := h.history ▸ hk.ages
  debt := h.debt hk.debt

namespace RankRecord.Bounded

theorem initial : RankRecord.initial.Bounded :=
  ⟨Nat.zero_le 4, fun _ h => absurd h List.not_mem_nil, Nat.zero_le 8⟩

theorem opened {k : RankRecord} (hk : k.Bounded) : k.opened.Bounded where
  history := by
    change ((k.history ++ [0]).drop (k.history.length + 1 - 4)).length ≤ 4
    rw [List.length_drop, List.length_append, List.length_singleton]
    omega
  ages age h := by
    rcases List.mem_append.mp (List.mem_of_mem_drop h) with h | h
    · exact hk.ages age h
    · rw [List.mem_singleton.mp h]
      exact Nat.zero_le 255
  debt := hk.debt

theorem count {k : RankRecord} (hk : k.Bounded) : k.count.Bounded where
  history := (List.length_map (as := k.history) _).trans_le hk.history
  ages age h := by
    obtain ⟨old, -, rfl⟩ := List.mem_map.mp h
    exact Nat.min_le_right _ _
  debt := hk.debt

end RankRecord.Bounded

def RanksBounded (s : State) : Prop := ∀ r, (rankAt s r).Bounded

theorem ranksBounded_dependsOn : DependsOn [.ranks] RanksBounded := by
  intro s t h hs r
  have hranks : t.ranks = s.ranks := h .ranks (by decide)
  rw [rankAt, hranks]
  exact hs r

theorem modifyRank_ranksBounded {f : RankRecord → RankRecord} (r : Rank) {s : State}
    (hf : ∀ k : RankRecord, k.Bounded → (f k).Bounded) (hs : RanksBounded s) :
    RanksBounded (modifyRank r f s) := by
  intro q
  rw [rankAt_modifyRank]
  split
  · exact hf _ (hs q)
  · exact hs q

theorem loseRank_ranksBounded (r : Rank) (s : State) (hs : RanksBounded s) :
    RanksBounded (loseRank r s) := by
  intro q
  rw [rankAt_loseRank]
  split
  · exact ⟨(hs q).history, (hs q).ages, (hs q).debt⟩
  · exact hs q

theorem takeOpportunity_ranksBounded {s : State} (hs : RanksBounded s) :
    RanksBounded (takeOpportunity s) := by
  rcases takeOpportunity_cases s with ⟨n, c, -, hc, e⟩ | ⟨n, a, -, e⟩ | ⟨n, a, -, e⟩ | ⟨-, e⟩ <;>
      rw [e]
  · cases c with
    | openRow b row =>
      intro r
      rw [rankAt_issue_openRow]
      split
      · exact (hs r).opened
      · exact hs r
    | close b => exact hs
    | closeRank q =>
      intro r
      rw [rankAt_issue_closeRank]
      split
      · exact ⟨(hs r).history, (hs r).ages, (hs r).debt⟩
      · exact hs r
    | refresh q =>
      intro r
      rw [rankAt_issue_refresh]
      split
      · exact ⟨(hs r).history, (hs r).ages, (Nat.sub_le _ 1).trans (hs r).debt⟩
      · exact hs r
    | read a => cases hc
    | write a => cases hc
  · have hkept := issueRead_keepsParts n a s .ranks (by decide)
    exact ranksBounded_dependsOn s _ (fun p hp => by rw [List.mem_singleton.mp hp]; exact hkept) hs
  · have hkept := issueWrite_keepsParts n a s .ranks (by decide)
    exact ranksBounded_dependsOn s _ (fun p hp => by rw [List.mem_singleton.mp hp]; exact hkept) hs
  · exact hs

theorem ranksBounded_stable : Stable RanksBounded where
  pending _ hs := hs
  host _ hs := hs
  opportunity := takeOpportunity_ranksBounded
  tclk {s} hs r := by
    rw [passTclk_rankAt]
    exact (hs r).count
  command {c} hc s hs := by
    cases hsets : SetsBanks c with
    | false => exact fun r => (after_ranksKept hc hsets s r).bounded (hs r)
    | true =>
      cases c
      case powerOnReset =>
        intro r
        rw [show rankAt (after s .powerOnReset) r = _ from rankAt_reset r]
        exact ⟨Nat.zero_le 4, fun _ h => absurd h List.not_mem_nil, Nat.zero_le 8⟩
      case softReset =>
        intro r
        obtain ⟨i, h⟩ := rankAt_softResetCommand s r
        rw [show rankAt (after s .softReset) r = _ from h]
        exact ⟨Nat.zero_le 4, fun _ h => absurd h List.not_mem_nil, Nat.zero_le 8⟩
      case targetAlert => exact targetAlert_of_loseRank loseRank_ranksBounded ranksBounded_dependsOn hs
      case geometryWrite be v =>
        exact geometryWrite_of_loseRank loseRank_ranksBounded ranksBounded_dependsOn
          (fun _ _ h => modifyRank_ranksBounded .r1 (fun k hk => ⟨hk.history, hk.ages, Nat.zero_le 8⟩) h)
          be v hs
      all_goals cases hsets

/-! ## The last rung (R99) -/

theorem lastRungBounded_dependsOn : DependsOn [.lastRung] fun s => s.arbiter.lastRung ≤ 9 := by
  intro s t h hs
  have hrung : t.arbiter.lastRung = s.arbiter.lastRung := h .lastRung (by decide)
  rwa [hrung]

theorem le_of_mem_rungsFor {n : Nat} {st : RunState} (h : n ∈ rungsFor st) : n ≤ 9 := by
  have hworks : ∀ m ∈ [1, 2, 3, 4, 5, 6, 7, 8, 9], m ≤ 9 := by decide
  have hrests : ∀ m ∈ [1, 2, 8], m ≤ 9 := by decide
  unfold rungsFor at h
  split at h
  · exact hworks n h
  · exact hrests n h

theorem lastRungBounded_stable : Stable fun s => s.arbiter.lastRung ≤ 9 := by
  refine lastRungBounded_dependsOn.stable (by decide) (fun {c} hc hwrites s hs => ?_) (fun {s} hs => ?_)
    (fun hs => hs)
  · cases c
    case powerOnReset => exact Nat.zero_le 9
    case softReset => exact Nat.zero_le 9
    all_goals cases hwrites
  · cases h : choose s with
    | none =>
      rw [takeOpportunity, h]
      exact hs
    | some p =>
      obtain ⟨n, c⟩ := p
      obtain ⟨-, hrung, -⟩ := choose_some h
      rw [takeOpportunity_some h]
      exact le_of_mem_rungsFor hrung

/-! ## Every capacity -/

theorem length_le_of_nodup {l : List BankAddr} (h : l.Nodup) : l.length ≤ 32 :=
  (h.subperm fun b _ => mem_allBanks b).length_le

/-- Settles O4: each capacity is a law of its own; the write phases are bounded by their spacing, a bank's by
their number, and the pending close order by the 32 banks. -/
theorem stepKeepsCapacities : Obligations.StepKeepsCapacities := by
  intro s t hs hvalid hspaced hcounted hpending ht
  obtain ⟨hqueue, hwindow, hflight, -, -, hrecords, hcompletions, hranks, hbanks, hbypass, hrung⟩ := hs
  have hcounted := writePhasesCounted_stable.step hcounted ht
  have hphases := (step_writePhasesSpaced hvalid hspaced ht).length_le
  obtain ⟨hnodup, -⟩ := pendingCloseAgrees_stable.step hpending ht
  obtain ⟨hwindow, hbypass⟩ := windowBounded_stable.step ⟨hwindow, hbypass⟩ ht
  have hranks : RanksBounded t := ranksBounded_stable.step
    (fun r => ⟨(hranks r).1, (hranks r).2.1, (hranks r).2.2⟩) ht
  have hidle : IdleBounded t := idleBounded_stable.step (fun b => (hbanks b).1) ht
  refine ⟨queueBounded_stable.step hqueue ht, hwindow, inFlightBounded_stable.step hflight ht, hphases,
    length_le_of_nodup hnodup, recordsBounded_stable.step hrecords ht,
    completionsBounded_stable.step hcompletions ht,
    fun r => ⟨(hranks r).history, (hranks r).ages, (hranks r).debt⟩, fun b => ⟨hidle b, ?_⟩, hbypass,
    lastRungBounded_stable.step hrung ht⟩
  rw [hcounted b]
  exact List.countP_le_length.trans hphases

end Sys2Proof.Machine
end

/-!
The encodings of the register window: the offsets of its words (R186) and the fields of the staging words
(R188).
-/
section

namespace Sys2Proof.Machine

/-! ## Offsets (R186) -/

theorem index_of_all_getElem? {i : Nat} {p : TimingParam} (h : TimingParam.all[i]? = some p) :
    p.index = i + 1 := by
  obtain ⟨hi, rfl⟩ := List.getElem?_eq_some_iff.mp h
  have hall : ∀ i : Fin 20, (TimingParam.all[i.val]'i.isLt).index = i.val + 1 := by decide
  exact hall ⟨i, hi⟩

theorem wordAt_offset (w : WindowWord) : wordAt w.offset = some w := by
  cases w with
  | staging i => revert i; decide
  | bankStates k => cases k <;> rfl
  | statistic i => revert i; decide
  | timing p => cases p <;> rfl
  | slot i => revert i; decide
  | tap k => cases k <;> rfl
  | completion k => cases k <;> rfl
  | failRecord i => revert i; decide
  | sweepEntry v => revert v; decide
  | _ => rfl

theorem offset_aligned (w : WindowWord) : w.offset % 4 = 0 ∧ w.offset < 2048 := by
  cases w with
  | staging i => have := i.isLt; simp only [WindowWord.offset]; omega
  | bankStates k => cases k <;> decide
  | statistic i => have := i.isLt; simp only [WindowWord.offset]; omega
  | timing p => cases p <;> decide
  | slot i => have := i.isLt; simp only [WindowWord.offset]; omega
  | tap k => cases k <;> decide
  | completion k => cases k <;> decide
  | failRecord i => have := i.isLt; simp only [WindowWord.offset]; omega
  | sweepEntry v => have := v.isLt; simp only [WindowWord.offset]; omega
  | _ => decide

theorem offset_of_singleWordAt {n : Nat} {w : WindowWord} (h : singleWordAt n = some w) : w.offset = n := by
  unfold singleWordAt at h
  split at h <;> cases h <;> rfl

/-- A word found at a word-aligned offset has that offset. -/
theorem offset_of_wordAt {n : Nat} {w : WindowWord} (hn : n % 4 = 0) (h : wordAt n = some w) :
    w.offset = n := by
  unfold wordAt at h
  split at h
  · cases h
    simp only [WindowWord.offset]
    omega
  split at h
  · cases h
    simp only [WindowWord.offset]
    rw [quad_num_ofNum (by omega)]
    omega
  split at h
  · cases h
    simp only [WindowWord.offset]
    omega
  split at h
  · obtain ⟨p, hp, rfl⟩ := Option.map_eq_some_iff.mp h
    simp only [WindowWord.offset, index_of_all_getElem? hp]
    omega
  split at h
  · cases h
    simp only [WindowWord.offset]
    omega
  split at h
  · cases h
    simp only [WindowWord.offset]
    rw [quad_num_ofNum (by omega)]
    omega
  split at h
  · cases h
    simp only [WindowWord.offset]
    rw [quad_num_ofNum (by omega)]
    omega
  split at h
  · cases h
    simp only [WindowWord.offset]
    omega
  split at h
  · cases h
    simp only [WindowWord.offset, BitVec.toNat_ofNat]
    omega
  · exact offset_of_singleWordAt h

/-- Settles O13: an offset is read back from the base and stride of its word's block. -/
theorem windowOffsetsDecode : Obligations.WindowOffsetsDecode := by
  refine ⟨fun w => ⟨wordAt_offset w, offset_aligned w⟩, fun la w h => offset_of_wordAt (by omega) h,
    fun w => ?_⟩
  cases w <;> rfl

/-! ## The bits of a word given as a number -/

theorem bits_ofNat (n : Nat) {lo len : Nat} (h : lo + len ≤ 32) :
    bits (BitVec.ofNat 32 n) lo len = n / 2 ^ lo % 2 ^ len := by
  rw [bits, BitVec.extractLsb'_toNat, BitVec.toNat_ofNat]
  refine Nat.eq_of_testBit_eq fun i => ?_
  simp only [Nat.testBit_mod_two_pow, Nat.testBit_shiftRight, Nat.testBit_div_two_pow]
  by_cases hi : i < len
  · simp [hi, show lo + i < 32 by omega, Nat.add_comm]
  · simp [hi]

theorem bit_eq_bits (w : Word) (i : Nat) : bit w i = decide (bits w i 1 = 1) := by
  rw [bit, BitVec.getLsbD, Nat.testBit_eq_decide_div_mod_eq, bits, BitVec.extractLsb'_toNat,
    Nat.shiftRight_eq_div_pow]

theorem bit_ofNat (n : Nat) {i : Nat} (h : i < 32) :
    bit (BitVec.ofNat 32 n) i = decide (n / 2 ^ i % 2 = 1) := by
  rw [bit_eq_bits, bits_ofNat n (by omega), pow_one]

theorem stagingWord_stagingWords (s : State) (w : Work) (i : Fin 8) :
    stagingWord { s with host.staging := w.stagingWords } i =
      BitVec.ofNat 32 (w.stagingNumbers.getD i.val 0) := by
  simp [stagingWord, Work.stagingWords]

theorem decide_toNat_eq_one (b : Bool) : decide (b.toNat = 1) = b := by cases b <;> rfl

theorem bit_ofNat_of_eq {n i : Nat} {b : Bool} (hi : i < 32) (h : n / 2 ^ i % 2 = b.toNat) :
    bit (BitVec.ofNat 32 n) i = b := by
  rw [bit_ofNat n hi, h, decide_toNat_eq_one]

theorem rankOfBit_num (r : Rank) : rankOfBit (decide (r.num = 1)) = r := by cases r <;> rfl

theorem rank_num_lt (r : Rank) : r.num < 2 := by cases r <;> decide

theorem walkOfCode_code (v : Walk) : walkOfCode v.code = some v := by cases v <;> rfl

theorem closePolicyOfCode_code (v : ClosePolicy) : closePolicyOfCode v.code = some v := by cases v <;> rfl

theorem formatOfCode_code (v : Format) : formatOfCode v.code = some v := by cases v <;> rfl

theorem Walk.code_lt (v : Walk) : v.code < 2 := by cases v <;> decide

theorem ClosePolicy.code_lt (v : ClosePolicy) : v.code < 3 := by cases v <;> decide

theorem Format.code_lt (v : Format) : v.code < 4 := by cases v <;> decide

theorem RegionKind.code_lt (v : RegionKind) : v.code < 4 := by cases v <;> decide

/-- The pattern and bank fields of staging word 0, beside any low byte. -/
theorem addressedBits_fields {low : Nat} (hlow : low < 256) (p : PatternFields) (b : BankAddr) :
    (low + addressedBits p b) / 2 ^ 8 % 2 ^ 3 = p.slot.val ∧
    (low + addressedBits p b) / 2 ^ 12 % 2 ^ 3 = p.format.code ∧
    (low + addressedBits p b) / 2 ^ 15 % 2 = p.invert.toNat ∧
    (low + addressedBits p b) / 2 ^ 16 % 2 = b.rank.num ∧
    (low + addressedBits p b) / 2 ^ 17 % 2 ^ 2 = b.bankSet.num ∧
    (low + addressedBits p b) / 2 ^ 19 % 2 ^ 2 = b.bank.num ∧
    (low + addressedBits p b) % 2 ^ 8 = low := by
  have hslot := p.slot.isLt
  have hformat := p.format.code_lt
  have hinvert := p.invert.toNat_le
  have hrank := rank_num_lt b.rank
  have hset := quad_num_lt b.bankSet
  have hbank := quad_num_lt b.bank
  unfold addressedBits
  omega

section Addressed

variable {s : State} {low : Nat} {p : PatternFields} {b : BankAddr}
  (hword : stagingWord s 0 = BitVec.ofNat 32 (low + addressedBits p b)) (hlow : low < 256)
include hword hlow

theorem stagedBank_of_word : stagedBank s = b := by
  obtain ⟨-, -, -, hrank, hset, hbank, -⟩ := addressedBits_fields hlow p b
  rw [stagedBank, hword, bit_ofNat _ (by decide), bits_ofNat _ (by decide), bits_ofNat _ (by decide), hrank,
    hset, hbank, rankOfBit_num, quad_ofNum_num, quad_ofNum_num]

theorem stagedPattern_of_word : stagedPattern s p.format = p := by
  obtain ⟨hslot, -, hinvert, -⟩ := addressedBits_fields hlow p b
  have hslot : bits (stagingWord s 0) 8 3 = p.slot.val := by rw [hword, bits_ofNat _ (by decide), hslot]
  have hinvert : bit (stagingWord s 0) 15 = p.invert := by
    rw [hword, bit_ofNat _ (by decide), hinvert, decide_toNat_eq_one]
  simp only [stagedPattern, hslot, hinvert]

theorem formatBits_of_word : formatOfCode (bits (stagingWord s 0) 12 3) = some p.format := by
  obtain ⟨-, hformat, -⟩ := addressedBits_fields hlow p b
  rw [hword, bits_ofNat _ (by decide), hformat, formatOfCode_code]

/-- The low byte's own fields. -/
theorem lowBits_of_word {lo len : Nat} (h : lo + len ≤ 8) :
    bits (stagingWord s 0) lo len = low / 2 ^ lo % 2 ^ len := by
  obtain ⟨-, -, -, -, -, -, hmod⟩ := addressedBits_fields hlow p b
  have hbits (i : Nat) (hi : i < 8) : (low + addressedBits p b).testBit i = low.testBit i := by
    have := congrArg (Nat.testBit · i) hmod
    simpa only [Nat.testBit_mod_two_pow, hi, decide_true, Bool.true_and] using this
  rw [hword, bits_ofNat _ (by omega)]
  refine Nat.eq_of_testBit_eq fun i => ?_
  simp only [Nat.testBit_mod_two_pow, Nat.testBit_div_two_pow]
  by_cases hi : i < len
  · rw [hbits (i + lo) (by omega)]
  · simp [hi]

theorem lowBit_of_word {i : Nat} (h : i < 8) : bit (stagingWord s 0) i = decide (low / 2 ^ i % 2 = 1) := by
  rw [bit_eq_bits, lowBits_of_word hword hlow h, pow_one]

end Addressed

/-! ## The staging words that spell a work decode to it (R188) -/

/-- The staging words are those that spell the work. -/
def Spells (s : State) (w : Work) : Prop :=
  ∀ i : Fin 8, stagingWord s i = BitVec.ofNat 32 (w.stagingNumbers.getD i.val 0)

theorem spells_stagingWords (s : State) (w : Work) : Spells { s with host.staging := w.stagingWords } w :=
  stagingWord_stagingWords s w

/-- The low byte of a region's staging word 0. -/
def Region.lowByte (r : Region) : Nat :=
  r.kind.code + 2 ^ 3 * r.fence.toNat + 2 ^ 4 * r.walk.code + 2 ^ 6 * r.close.code

theorem Region.lowByte_fields (r : Region) :
    r.lowByte < 256 ∧ r.lowByte / 2 ^ 0 % 2 ^ 3 = r.kind.code ∧ r.lowByte / 2 ^ 3 % 2 = r.fence.toNat ∧
      r.lowByte / 2 ^ 4 % 2 ^ 2 = r.walk.code ∧ r.lowByte / 2 ^ 6 % 2 ^ 2 = r.close.code := by
  have hkind := r.kind.code_lt
  have hfence := r.fence.toNat_le
  have hwalk := r.walk.code_lt
  have hclose := r.close.code_lt
  unfold lowByte
  omega

section Region

variable {s : State} {r : Region} (h : Spells s (.region r))
include h

theorem region_word : stagingWord s 0 = BitVec.ofNat 32 (r.lowByte + addressedBits r.pattern r.bank) := h 0

theorem stagedRegion_of_spells (hfits : (Work.region r).spellable = true) :
    stagedRegion s r.kind = some r := by
  simp only [Work.spellable, Bool.and_eq_true, decide_eq_true_eq] at hfits
  obtain ⟨⟨⟨hrow, hrows⟩, hcol⟩, hcols⟩ := hfits
  obtain ⟨hlow, -, hfence, hwalk, hclose⟩ := r.lowByte_fields
  have hword := region_word h
  have hrow' : bits (stagingWord s 1) 0 17 = r.rowFirst := by
    rw [h 1, bits_ofNat _ (by decide)]
    change r.rowFirst / 2 ^ 0 % 2 ^ 17 = _
    omega
  have hrows' : bits (stagingWord s 2) 0 18 = r.rowCount := by
    rw [h 2, bits_ofNat _ (by decide)]
    change r.rowCount / 2 ^ 0 % 2 ^ 18 = _
    omega
  have hcol' : bits (stagingWord s 3) 0 7 = r.colFirst := by
    rw [h 3, bits_ofNat _ (by decide)]
    change (r.colFirst + 2 ^ 8 * r.colCount) / 2 ^ 0 % 2 ^ 7 = _
    omega
  have hcols' : bits (stagingWord s 3) 8 8 = r.colCount := by
    rw [h 3, bits_ofNat _ (by decide)]
    change (r.colFirst + 2 ^ 8 * r.colCount) / 2 ^ 8 % 2 ^ 8 = _
    omega
  simp only [stagedRegion, stagedBank_of_word hword hlow, stagedPattern_of_word hword hlow,
    formatBits_of_word hword hlow, lowBits_of_word hword hlow (show 4 + 2 ≤ 8 by decide),
    lowBits_of_word hword hlow (show 6 + 2 ≤ 8 by decide), lowBit_of_word hword hlow (show 3 < 8 by decide),
    hwalk, hclose, hfence, walkOfCode_code, closePolicyOfCode_code, decide_toNat_eq_one, hrow', hrows',
    hcol', hcols', Option.bind_eq_bind, Option.bind_some]

theorem stagedWork_region_of_spells (hfits : (Work.region r).spellable = true) :
    stagedWork s = some (.region r) := by
  obtain ⟨hlow, hkind, -⟩ := r.lowByte_fields
  have hdecoded := stagedRegion_of_spells h hfits
  unfold stagedWork
  rw [lowBits_of_word (region_word h) hlow (show 0 + 3 ≤ 8 by decide), hkind]
  cases hk : r.kind <;> rw [hk] at hdecoded <;> simp only [RegionKind.code, hdecoded, Option.map_some]

end Region

theorem stagedSweep_of_spells {s : State} {f : SweepFields} (h : Spells s (.sweep f))
    (hfits : (Work.sweep f).spellable = true) : stagedSweep s = some f := by
  simp only [Work.spellable, Bool.and_eq_true, decide_eq_true_eq] at hfits
  obtain ⟨⟨hrow, hcol⟩, hreads⟩ := hfits
  have hword : stagingWord s 0 = BitVec.ofNat 32 (6 + addressedBits f.pattern f.addr.bank) := h 0
  have hlow : 6 < 256 := by decide
  have hlane := quad_num_lt f.lane
  have hfirst := f.tapFirst.isLt
  have hlast := f.tapLast.isLt
  have happly := f.applyWindow.toNat_le
  have h6 : stagingWord s 6 =
      BitVec.ofNat 32 (f.lane.num + 2 ^ 8 * f.tapFirst.toNat + 2 ^ 16 * f.tapLast.toNat) := h 6
  have h7 : stagingWord s 7 = BitVec.ofNat 32 (f.readsPerTap + 2 ^ 8 * f.applyWindow.toNat) := h 7
  have hrow' : bits (stagingWord s 1) 0 17 = f.addr.row := by
    rw [h 1, bits_ofNat _ (by decide)]
    change f.addr.row / 2 ^ 0 % 2 ^ 17 = _
    omega
  have hcol' : bits (stagingWord s 3) 0 7 = f.addr.col := by
    rw [h 3, bits_ofNat _ (by decide)]
    change f.addr.col / 2 ^ 0 % 2 ^ 7 = _
    omega
  have hlane' : bits (stagingWord s 6) 0 3 = f.lane.num := by
    rw [h6, bits_ofNat _ (by decide)]
    omega
  have hfirst' : bits (stagingWord s 6) 8 6 = f.tapFirst.toNat := by
    rw [h6, bits_ofNat _ (by decide)]
    omega
  have hlast' : bits (stagingWord s 6) 16 6 = f.tapLast.toNat := by
    rw [h6, bits_ofNat _ (by decide)]
    omega
  have hreads' : bits (stagingWord s 7) 0 8 = f.readsPerTap := by
    rw [h7, bits_ofNat _ (by decide)]
    omega
  have happly' : bit (stagingWord s 7) 8 = f.applyWindow := by
    rw [h7]
    exact bit_ofNat_of_eq (by decide) (by omega)
  simp only [stagedSweep, stagedBank_of_word hword hlow, stagedPattern_of_word hword hlow,
    formatBits_of_word hword hlow, hrow', hcol', hlane', hfirst', hlast', hreads', happly', quad_ofNum_num,
    BitVec.ofNat_toNat, BitVec.setWidth_eq, Option.bind_eq_bind, Option.bind_some]

/-- The staging words that spell a work decode to it. -/
theorem stagedWork_of_spells {s : State} {w : Work} (hfits : w.spellable = true) (h : Spells s w) :
    stagedWork s = some w := by
  cases w with
  | region r => exact stagedWork_region_of_spells h hfits
  | pause length hold =>
    have h4 : stagingWord s 4 =
      BitVec.ofNat 32 (length.toNat + 2 ^ 16 * hold.r0.toNat + 2 ^ 17 * hold.r1.toNat) := h 4
    have hlength := length.isLt
    have hr0 := hold.r0.toNat_le
    have hr1 := hold.r1.toNat_le
    have hkind : bits (stagingWord s 0) 0 3 = 4 := by
      rw [h 0, bits_ofNat _ (by decide)]
      change 4 / 2 ^ 0 % 2 ^ 3 = 4
      decide
    have hlength' : (stagingWord s 4).extractLsb' 0 16 = length := by
      refine BitVec.eq_of_toNat_eq ?_
      change bits (stagingWord s 4) 0 16 = _
      rw [h4, bits_ofNat _ (by decide)]
      omega
    have hr0' : bit (stagingWord s 4) 16 = hold.r0 := by
      rw [h4]
      exact bit_ofNat_of_eq (by decide) (by omega)
    have hr1' : bit (stagingWord s 4) 17 = hold.r1 := by
      rw [h4]
      exact bit_ofNat_of_eq (by decide) (by omega)
    simp only [stagedWork, hkind, stagedPause, hlength', hr0', hr1']
  | marker code =>
    have hkind : bits (stagingWord s 0) 0 3 = 5 := by
      rw [h 0, bits_ofNat _ (by decide)]
      change 5 / 2 ^ 0 % 2 ^ 3 = 5
      decide
    have hcode : (stagingWord s 5).extractLsb' 0 8 = code := by
      have := code.isLt
      refine BitVec.eq_of_toNat_eq ?_
      change bits (stagingWord s 5) 0 8 = _
      rw [h 5, bits_ofNat _ (by decide)]
      change code.toNat / 2 ^ 0 % 2 ^ 8 = _
      omega
    simp only [stagedWork, hkind, hcode]
  | sweep f =>
    have hword : stagingWord s 0 = BitVec.ofNat 32 (6 + addressedBits f.pattern f.addr.bank) := h 0
    have hkind : bits (stagingWord s 0) 0 3 = 6 :=
      lowBits_of_word hword (by decide) (show 0 + 3 ≤ 8 by decide)
    simp only [stagedWork, hkind, stagedSweep_of_spells h hfits, Option.map_some]

/-! ## The fields of the work that the staging words decode to (R188) -/

theorem rankOfBit_bit (w : Word) (i : Nat) : (rankOfBit (bit w i)).num = bits w i 1 := by
  have hlt : bits w i 1 < 2 := (w.extractLsb' i 1).isLt
  rw [bit_eq_bits]
  interval_cases h : bits w i 1 <;> rfl

theorem quad_ofNum_bits (w : Word) (lo : Nat) : (Quad.ofNum (bits w lo 2)).num = bits w lo 2 :=
  quad_num_ofNum (w.extractLsb' lo 2).isLt

/-- The bank that the staging words name. -/
theorem stagedBank_fields (s : State) :
    (stagedBank s).rank.num = bits (stagingWord s 0) 16 1 ∧
      (stagedBank s).bankSet.num = bits (stagingWord s 0) 17 2 ∧
      (stagedBank s).bank.num = bits (stagingWord s 0) 19 2 :=
  ⟨rankOfBit_bit _ _, quad_ofNum_bits _ _, quad_ofNum_bits _ _⟩

theorem stagedRegion_eq_some {s : State} {kind : RegionKind} {d : Region}
    (h : stagedRegion s kind = some d) :
    ∃ walk close format, walkOfCode (bits (stagingWord s 0) 4 2) = some walk ∧
      closePolicyOfCode (bits (stagingWord s 0) 6 2) = some close ∧
      formatOfCode (bits (stagingWord s 0) 12 3) = some format ∧
      d = { kind := kind, fence := bit (stagingWord s 0) 3, bank := stagedBank s
            rowFirst := bits (stagingWord s 1) 0 17, rowCount := bits (stagingWord s 2) 0 18
            colFirst := bits (stagingWord s 3) 0 7, colCount := bits (stagingWord s 3) 8 8
            walk := walk, pattern := stagedPattern s format, close := close } := by
  simp only [stagedRegion, Option.bind_eq_bind, Option.bind_eq_some_iff, Option.some.injEq] at h
  obtain ⟨walk, hwalk, close, hclose, format, hformat, rfl⟩ := h
  exact ⟨walk, close, format, hwalk, hclose, hformat, rfl⟩

theorem stagedSweep_eq_some {s : State} {f : SweepFields} (h : stagedSweep s = some f) :
    ∃ format, formatOfCode (bits (stagingWord s 0) 12 3) = some format ∧
      f = { addr := ⟨stagedBank s, bits (stagingWord s 1) 0 17, bits (stagingWord s 3) 0 7⟩
            pattern := stagedPattern s format, lane := .ofNum (bits (stagingWord s 6) 0 3)
            tapFirst := .ofNat 5 (bits (stagingWord s 6) 8 6)
            tapLast := .ofNat 5 (bits (stagingWord s 6) 16 6)
            readsPerTap := bits (stagingWord s 7) 0 8, applyWindow := bit (stagingWord s 7) 8 } := by
  simp only [stagedSweep, Option.bind_eq_bind, Option.bind_eq_some_iff, Option.some.injEq] at h
  obtain ⟨format, hformat, rfl⟩ := h
  exact ⟨format, hformat, rfl⟩

/-- The kind code of a staged work, with the fields that its kind has. -/
theorem stagedWork_eq_some {s : State} {w : Work} (h : stagedWork s = some w) :
    (∃ kind d, bits (stagingWord s 0) 0 3 = RegionKind.code kind ∧ stagedRegion s kind = some d ∧
      w = .region d) ∨
    (bits (stagingWord s 0) 0 3 = 4 ∧ w = stagedPause s) ∨
    (bits (stagingWord s 0) 0 3 = 5 ∧ w = .marker ((stagingWord s 5).extractLsb' 0 8)) ∨
    (∃ f, bits (stagingWord s 0) 0 3 = 6 ∧ stagedSweep s = some f ∧ w = .sweep f) := by
  unfold stagedWork at h
  split at h
  · next hkind =>
    obtain ⟨d, hd, rfl⟩ := Option.map_eq_some_iff.mp h
    exact .inl ⟨.write, d, hkind, hd, rfl⟩
  · next hkind =>
    obtain ⟨d, hd, rfl⟩ := Option.map_eq_some_iff.mp h
    exact .inl ⟨.read, d, hkind, hd, rfl⟩
  · next hkind =>
    obtain ⟨d, hd, rfl⟩ := Option.map_eq_some_iff.mp h
    exact .inl ⟨.checkWrite, d, hkind, hd, rfl⟩
  · next hkind =>
    cases h
    exact .inr (.inl ⟨hkind, rfl⟩)
  · next hkind =>
    cases h
    exact .inr (.inr (.inl ⟨hkind, rfl⟩))
  · next hkind =>
    obtain ⟨f, hf, rfl⟩ := Option.map_eq_some_iff.mp h
    exact .inr (.inr (.inr ⟨f, hkind, hf, rfl⟩))
  · cases h

/-- Settles O14: each field is read back from the bits that spell it, and the words that spell none are refused. -/
theorem stagingWordsDecode : Obligations.StagingWordsDecode := by
  refine ⟨fun s w hfits => stagedWork_of_spells hfits (spells_stagingWords s w), fun s w h => ?_⟩
  intro field yes inBank withPattern
  have hpattern {format : Format} (hformat : formatOfCode (bits (stagingWord s 0) 12 3) = some format) :
      withPattern (stagedPattern s format) :=
    ⟨rfl, rfl, (code_of_formatOfCode hformat).trans (by cases format <;> rfl)⟩
  rcases stagedWork_eq_some h with ⟨kind, d, hkind, hd, rfl⟩ | ⟨hkind, rfl⟩ | ⟨hkind, rfl⟩ |
    ⟨f, hkind, hf, rfl⟩
  · obtain ⟨walk, close, format, hwalk, hclose, hformat, rfl⟩ := stagedRegion_eq_some hd
    refine ⟨hkind.trans (by cases kind <;> rfl), rfl, stagedBank_fields s, rfl, rfl, rfl, rfl,
      hpattern hformat, (code_of_walkOfCode hwalk).trans (by cases walk <;> rfl),
      (code_of_closePolicyOfCode hclose).trans (by cases close <;> rfl)⟩
  · exact ⟨hkind, rfl, rfl⟩
  · exact ⟨hkind, rfl⟩
  · obtain ⟨format, hformat, rfl⟩ := stagedSweep_eq_some hf
    refine ⟨hkind, stagedBank_fields s, rfl, rfl, hpattern hformat, fun hlane => ?_, fun hfirst => ?_,
      fun hlast => ?_, rfl, rfl⟩
    · exact quad_num_ofNum (Nat.lt_succ_of_le hlane)
    · exact toNat_ofNat_of_lt (Nat.lt_succ_of_le hfirst)
    · exact toNat_ofNat_of_lt (Nat.lt_succ_of_le hlast)

end Sys2Proof.Machine
end

/-!
SOFT_RESET and the settle period it starts (R163, R164).
-/
section

namespace Sys2Proof.Machine

/-! ## The settle period (R164) -/

/-- Every term that counts for the length of the settle period. -/
def settleTermList (s : State) : List Nat :=
  [tclk s .refreshTime + tclk s .closeTime, tclk s .fourOpenWindow, tclk s .openToClose,
   tclk s .writeLatency + 4 + tclk s .writeRecovery] ++
  allBanks.map (fun b => (bankAt s b).restore.remaining) ++
  allBanks.map (fun b => (bankAt s b).writeRecovery.remaining) ++
  allBanks.map (fun b => (bankAt s b).closeTime.remaining) ++
  bothRanks.map (fun r => (rankAt s r).refreshTime.remaining) ++
  s.run.settle.toList.map Settle.length

theorem mem_settleTermList (s : State) (n : Nat) :
    n ∈ settleTermList s ↔
      (n = tclk s .refreshTime + tclk s .closeTime ∨ n = tclk s .fourOpenWindow ∨
        n = tclk s .openToClose ∨ n = tclk s .writeLatency + 4 + tclk s .writeRecovery) ∨
      (∃ b, (bankAt s b).restore.remaining = n) ∨ (∃ b, (bankAt s b).writeRecovery.remaining = n) ∨
      (∃ b, (bankAt s b).closeTime.remaining = n) ∨ (∃ r, (rankAt s r).refreshTime.remaining = n) ∨
      ∃ p, s.run.settle = some p ∧ p.length = n := by
  simp only [settleTermList, List.mem_append, List.mem_map, mem_allBanks, mem_bothRanks, true_and,
    List.mem_cons, List.not_mem_nil, or_false, Option.mem_toList, or_assoc]

theorem settleTerms_eq (s : State) :
    settleTerms s = max (tclk s .refreshTime + tclk s .closeTime) (max (tclk s .fourOpenWindow)
      (max (tclk s .openToClose) (max (tclk s .writeLatency + 4 + tclk s .writeRecovery)
        (longestTableTimer s)))) := rfl

/-- The length is a bound of every term. -/
theorem le_settleLength {s : State} {n : Nat} (h : n ∈ settleTermList s) : n ≤ settleLength s := by
  have hterms : settleTerms s ≤ settleLength s := Nat.le_max_right _ _
  have heq := settleTerms_eq s
  obtain ⟨hranks, hbanks⟩ := (longestTableTimer_le_iff s (longestTableTimer s)).mp le_rfl
  rcases (mem_settleTermList s n).mp h with h | ⟨b, rfl⟩ | ⟨b, rfl⟩ | ⟨b, rfl⟩ | ⟨r, rfl⟩ | ⟨p, hp, rfl⟩
  · omega
  · obtain ⟨hb, -, -⟩ := hbanks b
    omega
  · obtain ⟨-, hb, -⟩ := hbanks b
    omega
  · obtain ⟨-, -, hb⟩ := hbanks b
    omega
  · have := hranks r
    omega
  · exact fullSettleLength_le_settleLength s p hp

theorem longestTableTimer_mem (s : State) : longestTableTimer s ∈ settleTermList s := by
  rw [mem_settleTermList]
  rcases longestTableTimer_attained s with ⟨r, h⟩ | ⟨b, h | h | h⟩ <;> rw [h]
  · exact .inr (.inr (.inr (.inr (.inl ⟨r, rfl⟩))))
  · exact .inr (.inl ⟨b, rfl⟩)
  · exact .inr (.inr (.inl ⟨b, rfl⟩))
  · exact .inr (.inr (.inr (.inl ⟨b, rfl⟩)))

theorem settleTerms_mem (s : State) : settleTerms s ∈ settleTermList s := by
  have hmem := mem_settleTermList s (settleTerms s)
  rw [settleTerms_eq] at hmem ⊢
  rcases max_eq_or (tclk s .refreshTime + tclk s .closeTime) (max (tclk s .fourOpenWindow)
    (max (tclk s .openToClose) (max (tclk s .writeLatency + 4 + tclk s .writeRecovery)
      (longestTableTimer s)))) with h | h
  · exact hmem.mpr (.inl (.inl h))
  rcases max_eq_or (tclk s .fourOpenWindow) (max (tclk s .openToClose)
    (max (tclk s .writeLatency + 4 + tclk s .writeRecovery) (longestTableTimer s))) with h' | h'
  · exact hmem.mpr (.inl (.inr (.inl (h.trans h'))))
  rcases max_eq_or (tclk s .openToClose)
    (max (tclk s .writeLatency + 4 + tclk s .writeRecovery) (longestTableTimer s)) with h'' | h''
  · exact hmem.mpr (.inl (.inr (.inr (.inl (h.trans (h'.trans h''))))))
  rcases max_eq_or (tclk s .writeLatency + 4 + tclk s .writeRecovery) (longestTableTimer s) with h3 | h3
  · exact hmem.mpr (.inl (.inr (.inr (.inr (h.trans (h'.trans (h''.trans h3)))))))
  · rw [h, h', h'', h3]
    exact longestTableTimer_mem s

/-- The length is one of the terms. -/
theorem settleLength_mem (s : State) : settleLength s ∈ settleTermList s := by
  unfold settleLength
  cases h : s.run.settle with
  | none =>
    have hnone : fullSettleLength s = 0 := by rw [fullSettleLength, h]; rfl
    rw [hnone, Nat.zero_max]
    exact settleTerms_mem s
  | some p =>
    have hsome : fullSettleLength s = p.length := by rw [fullSettleLength, h]; rfl
    rw [hsome]
    rcases max_eq_or p.length (settleTerms s) with e | e <;> rw [e]
    · exact (mem_settleTermList s _).mpr (.inr (.inr (.inr (.inr (.inr ⟨p, h, rfl⟩)))))
    · exact settleTerms_mem s

theorem settlePeriodEnd_of_run {s : State} {p : Settle} (h : s.run.settle = some p)
    (hrun : p.length ≤ p.elapsed) : settlePeriodEnd s = { s with run.settle := none } := by
  simp only [settlePeriodEnd, h, if_pos hrun]

theorem settlePeriodEnd_of_not_run {s : State}
    (h : ∀ p, s.run.settle = some p → p.elapsed < p.length) : settlePeriodEnd s = s := by
  unfold settlePeriodEnd
  split
  · next p hp => rw [if_neg (Nat.not_le_of_lt (h p hp))]
  · rfl

/-- Settles O18: the period ends once its length has elapsed, and a reset starts it from the longest timer. -/
theorem settlePeriodRunsItsLength : Obligations.SettlePeriodRunsItsLength := fun s =>
  ⟨fun _ hp hrun => congrArg Host.Outcome.next (settlePeriodEnd_of_run hp hrun),
    fun h => congrArg Host.Outcome.next (settlePeriodEnd_of_not_run h),
    softResetCommand s, settleLength s, rfl, softResetCommand_settle s, settleLength_mem s,
    fun _ hn => le_settleLength hn⟩

/-! ## SOFT_RESET (R163) -/

/-- The state after a SOFT_RESET, its taps apart. -/
theorem softResetCommand_eq (s : State) :
    softResetCommand s = { s with
      host := { s.host with
        staging := .replicate 8 0, commandCode := 6, commandMask := 0
        resultCode := .accepted, resultDetail := 0 }
      intake := { queue := [], nextSeq := 0 }
      expander := .idle
      refreshHold := .all false
      window := []
      banks := .all (.all (.all .initial))
      ranks := .tabulate fun r => { RankRecord.initial with interval := restartedInterval s r }
      holds := .expired
      arbiter := { s.arbiter with pendingClose := [], lastRung := 0 }
      refresh := { s.refresh with missed := 0 }
      reads := { s.reads with inFlight := [], writePhases := [], timeouts := 0, strays := 0 }
      sweep := { s.sweep with taps := (restoreSweptTap s).sweep.taps }
      run := { s.run with
        state := .idle, haltCause := none, drainRequested := false, stats := .zero, completions := []
        flags := 0, alerts := 0, abortDiscards := 0, settle := some ⟨0, settleLength s⟩ } } := by
  have htaps : (restoreSweptTap (takeCommand 6 0 s)).sweep.taps = (restoreSweptTap s).sweep.taps := by
    simp only [restoreSweptTap, takeCommand_expander]
    split <;> rfl
  obtain ⟨x, hx⟩ := restoreSweptTap_frame (takeCommand 6 0 s)
  rw [hx] at htaps
  change x = _ at htaps
  rw [softResetCommand, softReset, hx, htaps]
  rfl

theorem restoreSweptTap_of_sweeping {s : State} {step : SweepStep} {w : Sweep}
    (h : s.expander = .sweeping step w) : restoreSweptTap s = setTap w.fields.lane w.originalTap s := by
  rw [restoreSweptTap, h]

theorem restoreSweptTap_of_not_sweeping {s : State} (h : ∀ step w, s.expander ≠ .sweeping step w) :
    restoreSweptTap s = s := by
  unfold restoreSweptTap
  split
  · next step w he => exact absurd he (h step w)
  · rfl

theorem restartedInterval_eq (s : State) (r : Rank) :
    restartedInterval s r =
      if isPresent s r ∧ s.refresh.enable.get r then .running (tclk s .refreshInterval) else .stopped := by
  simp only [restartedInterval, Bool.and_eq_true]

/-- Settles O19: the reset is one record update, after the swept tap is put back. -/
theorem softResetEmptiesAndKeeps : Obligations.SoftResetEmptiesAndKeeps := by
  intro s
  refine ⟨softResetCommand s, rfl, ?_⟩
  rw [softResetCommand_eq]
  refine ⟨rfl, rfl, rfl, rfl, rfl, rfl, fun b => bankAt_softResetCommand s b, fun r => ?_, fun h => ?_, rfl,
    rfl, rfl, rfl, rfl, rfl, fun h => ?_, fun step w h k => ?_, rfl, rfl, rfl, rfl⟩
  · rw [← restartedInterval_eq]
    exact PerRank.get_tabulate _ r
  · exact (holdExpired_iff _ h).mpr (congrArg Timer.remaining (holds_get_expired h))
  · exact congrArg (fun x => x.sweep.taps) (restoreSweptTap_of_not_sweeping h)
  · change (restoreSweptTap s).sweep.taps.get k = _
    rw [restoreSweptTap_of_sweeping h]
    exact PerQuad.get_modify _ _ _ _

end Sys2Proof.Machine
end

/-!
PUSH: its checks in their order and the descriptor an accepted one appends (R7–R13).
-/
section

namespace Sys2Proof.Machine

/-! ## The answers of PUSH -/

theorem pushCommand_of_error {s : State} {c : ResultCode} (h : checkPush s = .error c) :
    pushCommand s = { s with
      host.commandCode := 1, host.commandMask := 0, host.resultCode := c, host.resultDetail := 0 } := by
  rw [pushCommand, h]
  rfl

theorem pushCommand_of_ok {s : State} {w : Work} (h : checkPush s = .ok w) :
    pushCommand s = acceptPush w (takeCommand 1 0 s) := by
  rw [pushCommand, h]

theorem checkPush_of_aborting {s : State} (h : s.run.state = .aborting) :
    checkPush s = .error .engineBusy := by
  rw [checkPush, if_pos h]

theorem checkPush_of_full {s : State} (h : s.run.state ≠ .aborting) (hfull : 32 ≤ s.intake.queue.length) :
    checkPush s = .error .queueFull := by
  have hfull : ¬ s.intake.queue.length < Config.queueCapacity := Nat.not_lt_of_le hfull
  rw [checkPush, if_neg h, if_pos hfull]

section Room

variable {s : State} (h : s.run.state ≠ .aborting) (hroom : s.intake.queue.length < 32)
include h hroom

theorem checkPush_of_undecoded (hw : stagedWork s = none) : checkPush s = .error .badKind := by
  have hroom : ¬ ¬ s.intake.queue.length < Config.queueCapacity := not_not_intro hroom
  rw [checkPush, if_neg h, if_neg hroom, hw]

/-- The checks on a decoded work. -/
theorem checkPush_of_decoded {w : Work} (hw : stagedWork s = some w) :
    checkPush s =
      if !pauseFits w then .error .badPause
      else if !addressFits s.timing.geometry w then .error .badAddress
      else if !sweepFits s w then .error .badSweep
      else .ok w := by
  have hroom : ¬ ¬ s.intake.queue.length < Config.queueCapacity := not_not_intro hroom
  rw [checkPush, if_neg h, if_neg hroom, hw]

end Room

/-! ## What each check asks (R9–R12) -/

theorem bits_lt (w : Word) (lo len : Nat) : bits w lo len < 2 ^ len := (w.extractLsb' lo len).isLt

/-- The decoding fails for an unnamed kind, and for an unnamed code of a field that the kind carries (R9). -/
theorem stagedWork_eq_none (s : State) :
    stagedWork s = none ↔ bits (stagingWord s 0) 0 3 = 0 ∨ bits (stagingWord s 0) 0 3 = 7 ∨
      (bits (stagingWord s 0) 0 3 ∈ [1, 2, 3] ∧ (2 ≤ bits (stagingWord s 0) 4 2 ∨
        bits (stagingWord s 0) 6 2 = 3 ∨ 4 ≤ bits (stagingWord s 0) 12 3)) ∨
      (bits (stagingWord s 0) 0 3 = 6 ∧ 4 ≤ bits (stagingWord s 0) 12 3) := by
  have hkind := bits_lt (stagingWord s 0) 0 3
  have hclose : 3 ≤ bits (stagingWord s 0) 6 2 ↔ bits (stagingWord s 0) 6 2 = 3 := by
    have := bits_lt (stagingWord s 0) 6 2
    omega
  have hregion (kind : RegionKind) : (stagedRegion s kind).map Work.region = none ↔
      2 ≤ bits (stagingWord s 0) 4 2 ∨ bits (stagingWord s 0) 6 2 = 3 ∨
        4 ≤ bits (stagingWord s 0) 12 3 := by
    rw [Option.map_eq_none_iff, stagedRegion_eq_none, walkOfCode_eq_none, closePolicyOfCode_eq_none,
      formatOfCode_eq_none, hclose]
  have hsweep : (stagedSweep s).map Work.sweep = none ↔ 4 ≤ bits (stagingWord s 0) 12 3 := by
    rw [Option.map_eq_none_iff, stagedSweep_eq_none, formatOfCode_eq_none]
  unfold stagedWork
  generalize bits (stagingWord s 0) 0 3 = kind at hkind ⊢
  interval_cases kind
  · simp
  · simpa using hregion .write
  · simpa using hregion .read
  · simpa using hregion .checkWrite
  · simp
  · simp
  · simpa using hsweep
  · simp

theorem pauseFits_pause (length : BitVec 16) (hold : PerRank Bool) :
    pauseFits (.pause length hold) = true ↔ 1 ≤ length.toNat := by
  have hzero : length = 0 ↔ length.toNat = 0 := by
    rw [BitVec.toNat_eq]
    rfl
  rw [pauseFits, bne_iff_ne, ne_eq, hzero]
  omega

theorem present_iff (g : Geometry) (r : Rank) :
    g.present r = true ↔ r = .r0 ∨ g.ranksPresent.toNat = 2 := by
  cases r with
  | r0 => simp [Geometry.present]
  | r1 =>
    simp only [Geometry.present, beq_iff_eq, reduceCtorEq, false_or]
    exact BitVec.toNat_eq

/-- Settles O20: the refusals in the order of the checks, each after those ahead of it have passed. -/
theorem pushRefusesInOrder : Obligations.PushRefusesInOrder := by
  intro s refused field kind g
  have hrefused {c : ResultCode} (h : checkPush s = .error c) : exec .push s = refused c :=
    congrArg Host.Outcome.next (pushCommand_of_error h)
  refine ⟨fun h => hrefused (checkPush_of_aborting h), fun h => ⟨fun hfull =>
    hrefused (checkPush_of_full h hfull), fun hroom => ⟨fun hw =>
    hrefused (checkPush_of_undecoded h hroom hw), fun w hw => ?_⟩⟩, stagedWork_eq_none s,
    ⟨pauseFits_pause, fun w hw => ?_⟩, ⟨present_iff g, fun d => ?_, fun f => ?_, fun _ _ => rfl,
      fun _ => rfl⟩, fun f => ?_, fun w hw => ?_⟩
  · have hchecks := checkPush_of_decoded h hroom hw
    refine ⟨fun hpause => hrefused ?_, fun hpause => ⟨fun haddress => hrefused ?_,
      fun haddress hsweep => hrefused ?_⟩⟩
    · rw [hchecks, hpause]
      rfl
    · have haddress : addressFits s.timing.geometry w = false := haddress
      rw [hchecks, hpause, haddress]
      rfl
    · have haddress : addressFits s.timing.geometry w = true := haddress
      rw [hchecks, hpause, haddress, hsweep]
      rfl
  · cases w with
    | pause length hold => exact absurd rfl (hw length hold)
    | _ => rfl
  · simp only [addressFits, Bool.and_eq_true, decide_eq_true_eq, and_assoc]
    rfl
  · simp only [addressFits, Bool.and_eq_true, decide_eq_true_eq, and_assoc]
    rfl
  · simp only [sweepFits, Bool.and_eq_true, decide_eq_true_eq, and_assoc]
    rfl
  · cases w with
    | sweep f => exact absurd rfl (hw f)
    | _ => rfl

/-! ## The examination -/

/-- An expander that is not IDLE, or a run state that is not RUNNING, leaves the queue unexamined. -/
theorem examine_of_not_ready {s : State} (h : s.expander ≠ .idle ∨ s.run.state ≠ .running) :
    examine s = s := by
  have hfalse : ¬ (s.expander.isIdle && s.run.state == .running) = true := by
    rw [Bool.and_eq_true, beq_iff_eq]
    rintro ⟨hidle, hrunning⟩
    rcases h with h | h
    · cases he : s.expander <;> rw [he] at hidle
      · exact h he
      all_goals cases hidle
    · exact h hrunning
  rw [examine, if_neg hfalse]

theorem examine_of_ready {s : State} (hidle : s.expander = .idle) (hrunning : s.run.state = .running) :
    examine s = examineUpTo s.intake.queue.length s := by
  have htrue : (s.expander.isIdle && s.run.state == .running) = true := by
    rw [hidle, hrunning]
    rfl
  rw [examine, if_pos htrue]

theorem checkPush_of_fits {s : State} {w : Work} (h : s.run.state ≠ .aborting)
    (hroom : s.intake.queue.length < 32) (hw : stagedWork s = some w) (hpause : pauseFits w = true)
    (haddress : addressFits s.timing.geometry w = true) (hsweep : sweepFits s w = true) :
    checkPush s = .ok w := by
  rw [checkPush_of_decoded h hroom hw, hpause, haddress, hsweep]
  rfl

/-- Settles O21: the pushed descriptor joins the tail, and the expander examines it. -/
theorem pushAcceptedAppends : Obligations.PushAcceptedAppends := by
  refine ⟨fun r h => ?_, fun r h => ?_, fun f h => ?_, fun _ _ => rfl, fun _ => rfl,
    fun s w hstate hroom hw hpause haddress hsweep => ?_⟩
  · rcases h with h | h <;> simp only [Work.total, h]
  · simp only [Work.total, h]
  · have h : f.tapFirst.toNat ≤ f.tapLast.toNat := h
    rw [Work.total, Nat.sub_add_comm h]
  · intro t
    have hpush : pushCommand s = examine t :=
      pushCommand_of_ok (checkPush_of_fits hstate hroom hw hpause haddress hsweep)
    have hexec : exec .push s = .next (examine t) := congrArg Host.Outcome.next hpush
    exact ⟨hexec, fun h => hexec.trans (congrArg Host.Outcome.next (examine_of_not_ready (s := t) h))⟩

end Sys2Proof.Machine
end

/-!
What the expander makes of the oldest WAITING descriptor (R23, R24, R33, R37, R174).
-/
section

namespace Sys2Proof.Machine

/-! ## One descriptor of the queue -/

/-- The held descriptor with a seq that none ahead of it has is found. -/
theorem findDescriptor_one {s : State} {ahead behind : List Descriptor} {d : Descriptor}
    (hs : s.intake.queue = ahead ++ d :: behind) (h : ∀ a ∈ ahead, a.seq ≠ d.seq) :
    findDescriptor s d.seq = some d := by
  have hahead : ahead.find? (fun x => x.seq == d.seq) = none :=
    List.find?_eq_none.mpr fun a ha => by simpa using h a ha
  rw [findDescriptor, hs, List.find?_append, hahead, Option.none_or,
    List.find?_cons_of_pos (p := fun x : Descriptor => x.seq == d.seq) (beq_self_eq_true d.seq)]

theorem forall_mem_append {ahead behind : List Descriptor} {q : Seq} (h : ∀ a ∈ ahead, a.seq ≠ q)
    (h' : ∀ a ∈ behind, a.seq ≠ q) : ∀ x ∈ ahead ++ behind, x.seq ≠ q := fun x hx =>
  (List.mem_append.mp hx).elim (h x) (h' x)

theorem setLife_one {s : State} {ahead behind : List Descriptor} {d : Descriptor}
    (hs : s.intake.queue = ahead ++ d :: behind) (hahead : ∀ a ∈ ahead, a.seq ≠ d.seq)
    (hbehind : ∀ a ∈ behind, a.seq ≠ d.seq) (l : Lifecycle) :
    setLife d.seq l s = { s with intake.queue := ahead ++ { d with life := l } :: behind } :=
  modifyDescriptor_one d.seq _ s ahead behind d hs rfl (forall_mem_append hahead hbehind)

/-- The oldest WAITING descriptor, with none WAITING ahead of it. -/
theorem oldestWaiting_one {s : State} {ahead behind : List Descriptor} {d : Descriptor}
    (hs : s.intake.queue = ahead ++ d :: behind) (h : ∀ a ∈ ahead, a.life ≠ .waiting)
    (hd : d.life = .waiting) : oldestWaiting s = some d := by
  have hahead : ahead.find? (fun x => x.life == .waiting) = none :=
    List.find?_eq_none.mpr fun a ha => by simpa using h a ha
  rw [oldestWaiting, hs, List.find?_append, hahead, Option.none_or,
    List.find?_cons_of_pos (p := fun x : Descriptor => x.life == .waiting) (by simpa using hd)]

theorem oldestWaiting_eq_none {s : State} (h : ∀ d ∈ s.intake.queue, d.life ≠ .waiting) :
    oldestWaiting s = none :=
  List.find?_eq_none.mpr fun d hd => by simpa using h d hd

/-- The head is the descriptor with a seq of its own exactly when none is ahead of it. -/
theorem headSeq?_eq_some_iff {s : State} {ahead behind : List Descriptor} {d : Descriptor}
    (hs : s.intake.queue = ahead ++ d :: behind) (h : ∀ a ∈ ahead, a.seq ≠ d.seq) :
    headSeq? s = some d.seq ↔ ahead = [] := by
  cases ahead with
  | nil => simp [headSeq?, hs]
  | cons a ahead => simpa [headSeq?, hs] using h a List.mem_cons_self

/-- A SWEEP is held ahead of the descriptor (R24). -/
theorem behindSweep_one {s : State} {ahead behind : List Descriptor} {d : Descriptor}
    (hs : s.intake.queue = ahead ++ d :: behind) (h : ∀ a ∈ ahead, a.seq ≠ d.seq) :
    behindSweep s d.seq = ahead.any fun a => a.work.isSweep := by
  have htake : (ahead ++ d :: behind).takeWhile (fun x => x.seq != d.seq) = ahead := by
    rw [List.takeWhile_append_of_pos fun a ha => by simpa using h a ha,
      List.takeWhile_cons_of_neg (by simp), List.append_nil]
  rw [behindSweep, hs, htake]

/-- The take condition (R24). -/
theorem mayTake_one {s : State} {ahead behind : List Descriptor} {d : Descriptor}
    (hs : s.intake.queue = ahead ++ d :: behind) (h : ∀ a ∈ ahead, a.seq ≠ d.seq) :
    mayTake s d = true ↔
      ahead = [] ∨ (d.work.fenced = false ∧ ∀ a ∈ ahead, a.work.isSweep = false) := by
  rw [mayTake, Bool.or_eq_true, beq_iff_eq, headSeq?_eq_some_iff hs h, Bool.not_eq_true',
    Bool.or_eq_false_iff, behindSweep_one hs h, List.any_eq_false, or_comm]
  simp only [Bool.not_eq_true]

/-! ## The PAUSE hold (R33) -/

/-- A rank is held or left, by a test. -/
theorem holdRank_if (c : Bool) (r : Rank) (s : State) :
    (if c = true then holdRank r s else s) = { s with
      refreshHold := s.refreshHold.modify r fun x => x || c
      ranks := s.ranks.modify r fun k => if c = true then { k with interval := k.interval.hold } else k } := by
  cases c with
  | true =>
    simp only [if_true, Bool.or_true]
    rfl
  | false =>
    have hholds : s.refreshHold.modify r (fun x => x || false) = s.refreshHold :=
      PerRank.ext_get fun q => by simp
    have hranks : s.ranks.modify r (fun k => k) = s.ranks := PerRank.ext_get fun q => by simp
    simp only [Bool.false_eq_true, if_false, hholds, hranks]

/-- The refresh holds of the present ranks marked yes. -/
theorem beginPause_holds (q : Seq) (n : BitVec 16) (h : PerRank Bool) (s : State) :
    ∃ x y, beginPause q n h s = { s with
        expander := .pausing q (n.toNat * 1024), refreshHold := x, ranks := y } ∧
      (∀ r, x.get r = (s.refreshHold.get r || (isPresent s r && h.get r))) ∧
      ∀ r, y.get r = if isPresent s r ∧ h.get r then
        { rankAt s r with interval := (rankAt s r).interval.hold } else rankAt s r := by
  unfold beginPause
  simp only [bothRanks, List.foldl, holdRank_if]
  refine ⟨_, _, rfl, fun r => ?_, fun r => ?_⟩
  · cases r <;> simp [isPresent]
  · simp only [← Bool.and_eq_true]
    cases r <;> simp [isPresent, rankAt]

/-! ## The examination -/

/-- The descriptors that an examination can still reach. -/
def waitingCount (s : State) : Nat := s.intake.queue.countP fun d => d.life == .waiting

theorem oldestWaiting_of_waitingCount {s : State} (h : waitingCount s = 0) : oldestWaiting s = none :=
  oldestWaiting_eq_none fun d hd => by
    have := List.countP_eq_zero.mp h d hd
    simpa using this

/-- A descriptor that is WAITING and becomes COMPLETE is one fewer to reach. -/
theorem waitingCount_setLife_lt {s : State} {d : Descriptor} (h : oldestWaiting s = some d) :
    waitingCount (setLife d.seq .complete s) < waitingCount s := by
  have hd : (d.life == .waiting) = true :=
    List.find?_some (p := fun d : Descriptor => d.life == .waiting) h
  have hmem := List.mem_of_find?_eq_some h
  have hle (l : List Descriptor) : (l.map fun x => if x.seq = d.seq then { x with life := .complete } else x
      ).countP (fun x => x.life == .waiting) ≤ l.countP fun x => x.life == .waiting := by
    rw [List.countP_map]
    refine List.countP_mono_left fun x _ hx => ?_
    simp only [Function.comp_apply] at hx
    split at hx
    · cases hx
    · exact hx
  obtain ⟨ahead, behind, hqueue⟩ := List.append_of_mem hmem
  simp only [waitingCount, setLife, modifyDescriptor, hqueue, List.map_append, List.map_cons,
    List.countP_append, List.countP_cons, if_true]
  have hahead := hle ahead
  have hbehind := hle behind
  simp only [hd, if_true, show (Lifecycle.complete == Lifecycle.waiting) = false from rfl,
    Bool.false_eq_true, if_false]
  omega

/-- A fuel that reaches every WAITING descriptor is enough. -/
theorem examineUpTo_succ {n : Nat} {s : State} (h : waitingCount s ≤ n) :
    examineUpTo (n + 1) s = examineUpTo n s := by
  induction n generalizing s with
  | zero =>
    simp only [examineUpTo, oldestWaiting_of_waitingCount (Nat.le_zero.mp h)]
  | succ n ih =>
    cases hd : oldestWaiting s with
    | none =>
      rw [examineUpTo, examineUpTo, hd]
    | some d =>
      have hlt := waitingCount_setLife_lt hd
      rw [examineUpTo, hd]
      conv => rhs; rw [examineUpTo, hd]
      dsimp only
      split
      · exact ih (by omega)
      · rfl

section Examine

variable {s : State} {ahead behind : List Descriptor} {d : Descriptor}
  (hidle : s.expander = .idle) (hrunning : s.run.state = .running)
  (hs : s.intake.queue = ahead ++ d :: behind)
  (hahead : ∀ a ∈ ahead, a.life ≠ .waiting ∧ a.seq ≠ d.seq) (hbehind : ∀ a ∈ behind, a.seq ≠ d.seq)
  (hd : d.life = .waiting)
include hidle hrunning hs hahead hd

/-- The expander looks at the oldest WAITING descriptor. -/
theorem examine_oldest :
    examine s =
      if d.work.isMarker then examineUpTo (ahead.length + behind.length) (setLife d.seq .complete s)
      else if mayTake s d then takeDescriptor d s
      else setExpander (.fenceWait d.seq) s := by
  have hlength : s.intake.queue.length = ahead.length + behind.length + 1 := by
    rw [hs, List.length_append, List.length_cons, Nat.add_assoc]
  rw [examine_of_ready hidle hrunning, hlength, examineUpTo,
    oldestWaiting_one hs (fun a ha => (hahead a ha).1) hd]

theorem examine_fenced (hmarker : d.work.isMarker = false)
    (hfree : ¬ (ahead = [] ∨ (d.work.fenced = false ∧ ∀ a ∈ ahead, a.work.isSweep = false))) :
    examine s = { s with expander := .fenceWait d.seq } := by
  rw [← mayTake_one hs fun a ha => (hahead a ha).2] at hfree
  rw [examine_oldest hidle hrunning hs hahead hd, hmarker, if_neg Bool.false_ne_true, if_neg hfree]
  rfl

theorem examine_free (hmarker : d.work.isMarker = false)
    (hfree : ahead = [] ∨ (d.work.fenced = false ∧ ∀ a ∈ ahead, a.work.isSweep = false)) :
    examine s = takeDescriptor d s := by
  rw [← mayTake_one hs fun a ha => (hahead a ha).2] at hfree
  rw [examine_oldest hidle hrunning hs hahead hd, hmarker, if_neg Bool.false_ne_true, if_pos hfree]

include hbehind

theorem examine_marker (hmarker : d.work.isMarker = true) :
    examine s =
      examine { s with intake.queue := ahead ++ { d with life := .complete } :: behind } := by
  have hcount : waitingCount { s with intake.queue := ahead ++ { d with life := .complete } :: behind } ≤
      ahead.length + behind.length := by
    have h1 := List.countP_le_length (p := fun d : Descriptor => d.life == .waiting) (l := ahead)
    have h2 := List.countP_le_length (p := fun d : Descriptor => d.life == .waiting) (l := behind)
    have hcomplete : (Lifecycle.complete == Lifecycle.waiting) = false := rfl
    simp only [waitingCount, List.countP_append, List.countP_cons, hcomplete, Bool.false_eq_true, if_false]
    omega
  have hlength : (ahead ++ { d with life := .complete } :: behind).length =
      ahead.length + behind.length + 1 := by
    rw [List.length_append, List.length_cons, Nat.add_assoc]
  rw [examine_oldest hidle hrunning hs hahead hd, if_pos hmarker,
    setLife_one hs (fun a ha => (hahead a ha).2) hbehind, ← examineUpTo_succ hcount]
  refine Eq.symm ((examine_of_ready (s := { s with
    intake.queue := ahead ++ { d with life := .complete } :: behind }) hidle hrunning).trans ?_)
  exact congrArg (fun n => examineUpTo n _) hlength

end Examine

theorem isSweep_iff (w : Work) : w.isSweep = true ↔ ∃ f, w = .sweep f := by
  cases w <;> simp [Work.isSweep]

theorem isMarker_iff (w : Work) : w.isMarker = true ↔ ∃ c, w = .marker c := by
  cases w <;> simp [Work.isMarker]

theorem examine_of_none_waiting {s : State} (h : ∀ d ∈ s.intake.queue, d.life ≠ .waiting) :
    examine s = s := by
  unfold examine
  split
  · cases s.intake.queue.length with
    | zero => rfl
    | succ n => rw [examineUpTo, oldestWaiting_eq_none h]
  · rfl

/-- Settles O22: the oldest WAITING descriptor is examined, as a marker, a fenced or a free one. -/
theorem examineTakesOldestWaiting : Obligations.ExamineTakesOldestWaiting := by
  refine ⟨⟨fun _ => rfl, fun _ _ => rfl, fun _ => rfl, fun _ => rfl, isSweep_iff, isMarker_iff⟩,
    ⟨fun _ => rfl, fun _ => rfl, rfl, fun _ => rfl, fun _ => rfl, rfl⟩, fun s h => ?_, ?_⟩
  · rcases h with h | h | h
    · exact examine_of_not_ready (.inl h)
    · exact examine_of_not_ready (.inr h)
    · exact examine_of_none_waiting h
  · intro s ahead behind d hidle hrunning hs hahead hbehind hd free queued
    have hlife := setLife_one hs (fun a ha => (hahead a ha).2) hbehind .expanding
    refine ⟨fun c hc => examine_marker hidle hrunning hs hahead hbehind hd (by rw [hc]; rfl),
      examine_fenced hidle hrunning hs hahead hd, fun r hr hfree => ?_, fun n h hpause hfree => ?_,
      fun f hf hfree => ?_⟩
    · rw [examine_free hidle hrunning hs hahead hd (by rw [hr]; rfl) hfree, takeDescriptor, hr, hlife]
      rfl
    · have htake : takeDescriptor d s = beginPause d.seq n h (setLife d.seq .expanding s) := by
        rw [takeDescriptor, hpause]
      rw [examine_free hidle hrunning hs hahead hd (by rw [hpause]; rfl) hfree, htake, hlife]
      obtain ⟨x, y, heq, hx, hy⟩ := beginPause_holds d.seq n h
        { s with intake.queue := queued .expanding }
      exact ⟨_, heq, rfl, rfl, hx, hy, rfl⟩
    · rw [examine_free hidle hrunning hs hahead hd (by rw [hf]; rfl) hfree, takeDescriptor, hf, hlife]
      rfl

end Sys2Proof.Machine
end

/-!
The run commands (R153–R156) and the validation of the timing set and the geometry (R65, R68).
-/
section

namespace Sys2Proof.Machine

/-! ## The item that START reports (R68) -/

/-- Out of range, or breaking its constraint. -/
def TimingSet.Bad (t : TimingSet) (p : TimingParam) : Prop :=
  ¬ (inRange t p = true ∧ meetsConstraint t p = true)

theorem TimingSet.bad_iff (t : TimingSet) (p : TimingParam) :
    (!(inRange t p && meetsConstraint t p)) = true ↔ t.Bad p := by
  rw [Bool.not_eq_true', ← Bool.not_eq_true, Bool.and_eq_true, Bad]

theorem index_le (p : TimingParam) : p.index ≤ 20 := by cases p <;> decide

theorem index_injective {p q : TimingParam} (h : p.index = q.index) : p = q :=
  List.inj_on_of_nodup_map (f := TimingParam.index) (l := TimingParam.all) (by decide) (TimingParam.mem_all p)
    (TimingParam.mem_all q) h

theorem all_sorted : TimingParam.all.Pairwise fun p q => p.index < q.index := by decide

/-- The parameter reported is the bad one of lowest index. -/
theorem firstBadParam_eq_some {t : TimingSet} {i : Nat} (h : firstBadParam t = some i) :
    ∃ p, p.index = i ∧ t.Bad p ∧ ∀ q : TimingParam, q.index < p.index → ¬ t.Bad q := by
  obtain ⟨p, hp, rfl⟩ := Option.map_eq_some_iff.mp h
  obtain ⟨hbad, ahead, behind, hall, hahead⟩ := List.find?_eq_some_iff_append.mp hp
  refine ⟨p, rfl, (t.bad_iff p).mp hbad, fun q hq hqbad => ?_⟩
  have hsorted := all_sorted
  have hmem := TimingParam.mem_all q
  rw [hall] at hsorted hmem
  obtain ⟨-, hrest, -⟩ := List.pairwise_append.mp hsorted
  rcases List.mem_append.mp hmem with hm | hm
  · have := hahead q hm
    rw [(t.bad_iff q).mpr hqbad] at this
    cases this
  · rcases List.mem_cons.mp hm with rfl | hm
    · exact absurd hq (lt_irrefl _)
    · exact absurd (List.rel_of_pairwise_cons hrest hm) (Nat.lt_asymm hq)

theorem firstBadParam_none_iff (t : TimingSet) : firstBadParam t = none ↔ ∀ p, ¬ t.Bad p := by
  rw [firstBadParam, Option.map_eq_none_iff, List.find?_eq_none]
  exact ⟨fun h p hp => h p (TimingParam.mem_all p) ((t.bad_iff p).mpr hp), fun h p _ hp => h p ((t.bad_iff p).mp hp)⟩

theorem firstBadParam_some_iff (t : TimingSet) (p : TimingParam) :
    firstBadParam t = some p.index ↔
      (t.Bad p ∧ ∀ q : TimingParam, q.index < p.index → ¬ t.Bad q) := by
  constructor
  · intro h
    obtain ⟨q, hq, hbad⟩ := firstBadParam_eq_some h
    rwa [index_injective hq] at hbad
  · rintro ⟨hbad, hfirst⟩
    cases h : firstBadParam t with
    | none => exact absurd hbad ((firstBadParam_none_iff t).mp h p)
    | some i =>
      obtain ⟨q, rfl, hq, hqfirst⟩ := firstBadParam_eq_some h
      have hle : ¬ q.index < p.index := fun hlt => hfirst q hlt hq
      have hge : ¬ p.index < q.index := fun hlt => hqfirst p hlt hbad
      rw [show q.index = p.index by omega]

/-- START reports a parameter when one is bad, and a geometry item when none is. -/
theorem startFault_some_iff (s : State) (p : TimingParam) :
    startFault s = some p.index ↔ firstBadParam s.timing.stored = some p.index := by
  have hle := index_le p
  unfold startFault
  cases firstBadParam s.timing.stored with
  | some i => rfl
  | none =>
    simp only [firstBadGeometry, reduceCtorEq, iff_false]
    split
    · simp only [Option.some.injEq]
      omega
    split
    · simp only [Option.some.injEq]
      omega
    split
    · simp only [Option.some.injEq]
      omega
    · exact Option.some_ne_none _ ∘ Eq.symm

/-- An answer of START that names no parameter is an answer about the geometry. -/
theorem startFault_eq_iff_geometry (s : State) {x : Option Nat} (hx : ∀ p : TimingParam, x ≠ some p.index) :
    startFault s = x ↔
      (∀ p, ¬ s.timing.stored.Bad p) ∧ firstBadGeometry s.timing.geometry = x := by
  rw [← firstBadParam_none_iff]
  unfold startFault
  cases h : firstBadParam s.timing.stored with
  | none => simp
  | some i =>
    obtain ⟨p, rfl, -⟩ := firstBadParam_eq_some h
    simp only [reduceCtorEq, false_and, iff_false]
    exact (hx p).symm

theorem some_ne_index {i : Nat} (h : 20 < i) (p : TimingParam) : some i ≠ some p.index := by
  have := index_le p
  simp only [ne_eq, Option.some.injEq]
  omega

theorem ranksPresent_iff (g : Geometry) :
    (g.ranksPresent = 1 ∨ g.ranksPresent = 2) ↔ (g.ranksPresent.toNat = 1 ∨ g.ranksPresent.toNat = 2) := by
  rw [BitVec.toNat_eq, BitVec.toNat_eq]
  rfl

/-- The range of a parameter and its constraint, as numbers. -/
theorem TimingSet.bad_iff_range {t : TimingSet} {p : TimingParam} {lo hi : Nat} {met : Prop}
    (hrange : paramRange p = (lo, hi)) (hmet : meetsConstraint t p = true ↔ met) :
    t.Bad p ↔ ¬ (lo ≤ (t.get p).toNat ∧ (t.get p).toNat ≤ hi ∧ met) := by
  rw [Bad, inRange, hrange, hmet, Bool.and_eq_true, decide_eq_true_eq, decide_eq_true_eq, and_assoc]

theorem startCommand_of_not_idle {s : State} (h : s.run.state ≠ .idle) :
    startCommand s = answer .wrongState 0 (takeCommand 2 0 s) := by
  have h : ¬ (takeCommand 2 0 s).run.state = .idle := h
  rw [startCommand, if_neg h]

theorem startCommand_of_fault {s : State} {i : Nat} (h : s.run.state = .idle) (hi : startFault s = some i) :
    startCommand s = answer .configInvalid (.ofNat 8 i) (takeCommand 2 0 s) := by
  have h : (takeCommand 2 0 s).run.state = .idle := h
  have hi : startFault (takeCommand 2 0 s) = some i := hi
  rw [startCommand, if_pos h, hi]

theorem startCommand_of_valid {s : State} (h : s.run.state = .idle) (hi : startFault s = none) :
    startCommand s = examine (enterRunning (takeCommand 2 0 s)) := by
  have h : (takeCommand 2 0 s).run.state = .idle := h
  have hi : startFault (takeCommand 2 0 s) = none := hi
  rw [startCommand, if_pos h, hi]

/-- Settles O23: START checks every parameter and then runs. -/
theorem startValidatesThenRuns : Obligations.StartValidatesThenRuns := by
  intro s
  refine ⟨fun h => congrArg Host.Outcome.next (startCommand_of_not_idle h),
    fun h i hi => congrArg Host.Outcome.next (startCommand_of_fault h hi),
    fun h hi => congrArg Host.Outcome.next (startCommand_of_valid h hi), ?_⟩
  intro bad g ranksBad rowsBad burstsBad
  have hgeometry := ranksPresent_iff g
  have hbursts : (g.bursts = 16 ∨ g.bursts = 32 ∨ g.bursts = 64 ∨ g.bursts = 128) ↔
      g.burstsPerRow.toNat ∈ [16, 32, 64, 128] := by
    simp [Geometry.bursts]
  have hfault : firstBadGeometry g =
      if ranksBad then some 21 else if rowsBad then some 22 else if burstsBad then some 23 else none := by
    simp only [firstBadGeometry, hgeometry, hbursts]
    rfl
  refine ⟨fun p => (startFault_some_iff s p).trans (firstBadParam_some_iff _ p), ?_, ?_, ?_, ?_, ?_⟩
  · rw [startFault_eq_iff_geometry s (some_ne_index (by decide)), hfault]
    refine and_congr_right fun _ => ?_
    by_cases ranksBad <;> by_cases rowsBad <;> by_cases burstsBad <;> simp [*]
  · rw [startFault_eq_iff_geometry s (some_ne_index (by decide)), hfault]
    refine and_congr_right fun _ => ?_
    by_cases ranksBad <;> by_cases rowsBad <;> by_cases burstsBad <;> simp [*]
  · rw [startFault_eq_iff_geometry s (some_ne_index (by decide)), hfault]
    refine and_congr_right fun _ => ?_
    by_cases ranksBad <;> by_cases rowsBad <;> by_cases burstsBad <;> simp [*]
  · rw [startFault_eq_iff_geometry s (fun _ => (Option.some_ne_none _).symm), hfault]
    refine and_congr_right fun _ => ?_
    by_cases ranksBad <;> by_cases rowsBad <;> by_cases burstsBad <;> simp [*]
  · intro t v allowed parameters
    have hfree {p : TimingParam} {lo hi : Nat} (hrange : paramRange p = (lo, hi))
        (hmet : meetsConstraint t p = true) : allowed p lo hi True :=
      TimingSet.bad_iff_range hrange (iff_true_intro hmet)
    have hbound {p : TimingParam} {lo hi : Nat} {met : Prop} (hrange : paramRange p = (lo, hi))
        (hmet : meetsConstraint t p = true ↔ met) : allowed p lo hi met :=
      TimingSet.bad_iff_range hrange hmet
    exact ⟨fun _ => rfl, rfl, rfl, hfree rfl rfl, hfree rfl rfl, hfree rfl rfl, hfree rfl rfl,
      hbound rfl decide_eq_true_iff, hbound rfl decide_eq_true_iff, hfree rfl rfl,
      hbound rfl decide_eq_true_iff, hfree rfl rfl, hbound rfl decide_eq_true_iff, hfree rfl rfl,
      hfree rfl rfl, hfree rfl rfl, hfree rfl rfl, hfree rfl rfl, hbound rfl decide_eq_true_iff,
      hfree rfl rfl, hfree rfl rfl, hfree rfl rfl, hfree rfl rfl⟩

/-! ## STOP (R154, R25, R35, R179) -/

theorem stopCommand_of_running {s : State} (h : s.run.state = .running) :
    stopCommand s = answer .accepted 0 (stopExpander { takeCommand 3 0 s with run.state := .draining }) := by
  simp only [stopCommand, takeCommand_run, h]

theorem stopCommand_of_draining {s : State} (h : s.run.state = .draining) :
    stopCommand s = answer .accepted 0 (takeCommand 3 0 s) := by
  simp only [stopCommand, takeCommand_run, h]

theorem stopCommand_of_other {s : State}
    (h : s.run.state = .idle ∨ s.run.state = .halted ∨ s.run.state = .aborting) :
    stopCommand s = answer .wrongState 0 (takeCommand 3 0 s) := by
  rcases h with h | h | h <;> simp only [stopCommand, takeCommand_run, h]

/-- Settles O24: STOP by run state, and by what the expander has in hand. -/
theorem stopDrains : Obligations.StopDrains := by
  intro s answered draining
  refine ⟨fun h => congrArg Host.Outcome.next (stopCommand_of_other h),
    fun h => congrArg Host.Outcome.next (stopCommand_of_draining h), fun h => ?_⟩
  have hexec : exec .stop s = .next (answer .accepted 0
      (stopExpander { takeCommand 3 0 s with run.state := .draining })) :=
    congrArg Host.Outcome.next (stopCommand_of_running h)
  refine ⟨fun he => ?_, fun q he => ?_, fun q row col he => ?_, fun q n he => ?_, fun step w he => ?_⟩ <;>
    rw [hexec, stopExpander, takeCommand_expander, he] <;> rfl

/-! ## RESUME (R156, R26) -/

theorem fenceTake_of_not_waiting {s : State} (h : ∀ q, s.expander ≠ .fenceWait q) : fenceTake s = s := by
  unfold fenceTake
  split
  · next q he => exact absurd he (h q)
  · rfl

theorem resumeCommand_of_not_halted {s : State} (h : s.run.state ≠ .halted) :
    resumeCommand s = answer .wrongState 0 (takeCommand 4 0 s) := by
  have h : ¬ (takeCommand 4 0 s).run.state = .halted := h
  rw [resumeCommand, if_neg h]

theorem resumeCommand_of_halted {s : State} (h : s.run.state = .halted) :
    resumeCommand s =
      if s.run.drainRequested then answer .accepted 0 { takeCommand 4 0 s with run.state := .draining }
      else answer .accepted 0 (resumeExpander { takeCommand 4 0 s with run.state := .running }) := by
  have h : (takeCommand 4 0 s).run.state = .halted := h
  rw [resumeCommand, if_pos h]
  rfl

/-- An examination does not see the register window's own registers. -/
theorem takeDescriptor_host (d : Descriptor) (s : State) (h : HostPort) :
    takeDescriptor d { s with host := h } = { takeDescriptor d s with host := h } := by
  unfold takeDescriptor
  cases d.work with
  | pause n holds =>
    dsimp only
    simp only [beginPause, bothRanks, List.foldl, holdRank_if]
    rfl
  | _ => rfl

theorem examineUpTo_host (n : Nat) (s : State) (h : HostPort) :
    examineUpTo n { s with host := h } = { examineUpTo n s with host := h } := by
  induction n generalizing s with
  | zero => rfl
  | succ n ih =>
    have holdest : oldestWaiting { s with host := h } = oldestWaiting s := rfl
    have hmay (d : Descriptor) : mayTake { s with host := h } d = mayTake s d := rfl
    simp only [examineUpTo, holdest, hmay]
    cases oldestWaiting s with
    | none => rfl
    | some d =>
      dsimp only
      split
      · exact ih (setLife d.seq .complete s)
      · split
        · exact takeDescriptor_host d s h
        · rfl

theorem examine_host (s : State) (h : HostPort) :
    examine { s with host := h } = { examine s with host := h } := by
  unfold examine
  split
  · exact examineUpTo_host _ s h
  · rfl

theorem fenceTake_host (s : State) (h : HostPort) :
    fenceTake { s with host := h } = { fenceTake s with host := h } := by
  have hfind (q : Seq) : findDescriptor { s with host := h } q = findDescriptor s q := rfl
  have hhead : headSeq? { s with host := h } = headSeq? s := rfl
  simp only [fenceTake, hfind, hhead]
  split
  · split
    · split
      · exact takeDescriptor_host _ s h
      · rfl
    · rfl
  · rfl

theorem resumeExpander_host (s : State) (h : HostPort) :
    resumeExpander { s with host := h } = { resumeExpander s with host := h } := by
  rw [resumeExpander, fenceTake_host]
  exact examine_host _ h

theorem resumeExpander_hostSame (s : State) : (resumeExpander s).host = s.host := by
  obtain ⟨_, _, _, _, _, hfence⟩ := fenceTake_frame s
  obtain ⟨_, _, _, _, _, hexamine⟩ := examine_frame (fenceTake s)
  rw [resumeExpander, hexamine, hfence]

theorem resumeExpander_answer (c : ResultCode) (d : Byte) (s : State) :
    answer c d (resumeExpander s) = resumeExpander (answer c d s) := by
  refine Eq.trans ?_ (resumeExpander_host s { s.host with resultCode := c, resultDetail := d }).symm
  rw [answer, resumeExpander_hostSame]

/-- Settles O25: RESUME returns to the state that the halt left. -/
theorem resumeReturns : Obligations.ResumeReturns := by
  intro s answered
  refine ⟨fun h => congrArg Host.Outcome.next (resumeCommand_of_not_halted h), fun h hdrain => ?_,
    fun h hdrain => ?_⟩
  · refine congrArg Host.Outcome.next ((resumeCommand_of_halted h).trans ?_)
    rw [if_pos hdrain]
    rfl
  · have hresume : resumeCommand s =
        examine (fenceTake { answered .accepted with run.state := .running }) := by
      rw [resumeCommand_of_halted h, if_neg (Bool.eq_false_iff.mp hdrain), resumeExpander_answer]
      rfl
    refine ⟨congrArg Host.Outcome.next hresume, fun hidle hfence => ?_⟩
    have hfence' := fenceTake_of_not_waiting (s := { answered .accepted with run.state := .running }) hfence
    rw [hfence'] at hresume
    exact congrArg Host.Outcome.next (hresume.trans (examine_of_not_ready (.inl hidle)))

/-! ## ABORT (R155, R27, R42, R181) -/

theorem abortCommand_of_idle {s : State} (h : s.run.state = .idle) :
    abortCommand s =
      answer .accepted (.ofNat 8 s.intake.queue.length) (discardQueue (takeCommand 5 0 s)) := by
  simp only [abortCommand, takeCommand_run, h, takeCommand_intake]

theorem abortCommand_of_aborting {s : State} (h : s.run.state = .aborting) :
    abortCommand s = answer .accepted 0 (takeCommand 5 0 s) := by
  simp only [abortCommand, takeCommand_run, h]

theorem abortCommand_of_other {s : State} (hidle : s.run.state ≠ .idle)
    (haborting : s.run.state ≠ .aborting) :
    abortCommand s = answer .accepted 0 (enterAborting (takeCommand 5 0 s)) := by
  unfold abortCommand
  dsimp only
  split
  · next h => exact absurd h hidle
  · next h => exact absurd h haborting
  · rfl

theorem abortExpander_of_not_sweeping {s : State} (h : ∀ step w, s.expander ≠ .sweeping step w) :
    abortExpander s = setExpander .idle s := by
  unfold abortExpander
  split
  · next step w he => exact absurd he (h step w)
  · rfl

/-- A sweep is marked, and wound down at once when no read is in flight. -/
theorem abortExpander_of_sweeping {s : State} {step : SweepStep} {w : Sweep}
    (h : s.expander = .sweeping step w) :
    abortExpander s =
      if s.reads.inFlight = [] then setExpander .idle (setTap w.fields.lane w.originalTap s)
      else setExpander (.sweeping step { w with abortMark := true }) s := by
  rw [abortExpander, h]
  by_cases hempty : s.reads.inFlight = []
  · simp only [windDownSweep, setExpander_expander, setExpander_reads, hempty, and_self, if_true]
    rfl
  · simp only [windDownSweep, setExpander_expander, setExpander_reads, hempty, and_false, if_false]

/-- Settles O26: ABORT empties the unit at once, or marks the sweep in hand. -/
theorem abortEmptiesOrWindsDown : Obligations.AbortEmptiesOrWindsDown := by
  intro s answered aborting
  refine ⟨fun h => congrArg Host.Outcome.next ((abortCommand_of_idle h).trans ?_),
    fun h => congrArg Host.Outcome.next (abortCommand_of_aborting h), fun hidle haborting => ?_⟩
  · rw [discardQueue, satAdd_eq]
    rfl
  · have hexec : exec .abort s = .next (answer .accepted 0 (enterAborting (takeCommand 5 0 s))) :=
      congrArg Host.Outcome.next (abortCommand_of_other hidle haborting)
    have hentered {t : State} (h : enterAborting (takeCommand 5 0 s) = t) :
        exec .abort s = .next (answer .accepted 0 t) := by
      rw [hexec, h]
    have hsweeping {step : SweepStep} {w : Sweep} (h : s.expander = .sweeping step w) :=
      abortExpander_of_sweeping (s := { takeCommand 5 0 s with run.state := .aborting, window := [] }) h
    exact ⟨fun h => hentered (abortExpander_of_not_sweeping h),
      fun step w h hflight => hentered ((hsweeping h).trans (if_neg hflight)),
      fun step w h hflight => hentered ((hsweeping h).trans (if_pos hflight))⟩

end Sys2Proof.Machine
end

/-!
Offers that merge or are dropped (R141, R143), and the refresh commands and interval expiries (R69, R101–R104).
-/
section

namespace Sys2Proof.Machine

/-! ## Offers (R141, R143) -/

theorem holdsKey_of_mem {s : State} {r : FailRecord} {k : Addr} (hr : r ∈ s.failLog.records)
    (hk : r.key = k) : holdsKey s k = true :=
  List.any_eq_true.mpr ⟨r, hr, by simpa using hk⟩

/-- An offer for the key of one record merges into it. -/
theorem takeOffer_merge {s : State} {o : Offer} {ahead behind : List FailRecord} {r : FailRecord}
    (hs : s.failLog.records = ahead ++ r :: behind) (hr : r.key = o.key)
    (h : ∀ x ∈ ahead ++ behind, x.key ≠ o.key) :
    takeOffer o s = { s with failLog.records := ahead ++ r.merge o :: behind } := by
  have hmem : r ∈ s.failLog.records := by
    rw [hs]
    exact List.mem_append_right _ List.mem_cons_self
  rw [takeOffer, if_pos (holdsKey_of_mem hmem hr), mergeOffer, hs,
    map_if_one (fun x : FailRecord => x.key = o.key) (fun x => x.merge o) ahead behind r hr h]

/-- An offer for a new key finds a full log. -/
theorem takeOffer_drop {s : State} {o : Offer} (hkey : ∀ r ∈ s.failLog.records, r.key ≠ o.key)
    (hfull : 32 ≤ s.failLog.records.length) : takeOffer o s = dropOffer s := by
  have hnew : ¬ holdsKey s o.key = true := by simpa [holdsKey_eq_false_iff] using hkey
  have hcap : ¬ s.failLog.records.length < Config.failLogCapacity := Nat.not_lt_of_le hfull
  rw [takeOffer, if_neg hnew, if_neg hcap]

/-- Settles O31: an offer of a held key merges into its record, and one that finds the log full is dropped. -/
theorem offerMergesOrIsDropped : Obligations.OfferMergesOrIsDropped := by
  intro s o rest ho
  have hoffer : exec .failOffer s = .next (takeOffer o { s with messages.offers := rest }) :=
    (exec_failOffer s).trans (congrArg Host.Outcome.next (failOffer_cons ho))
  refine ⟨fun ahead r behind hs hr h => ?_, fun hkey hfull => ?_⟩
  · rw [hoffer, takeOffer_merge (s := { s with messages.offers := rest }) hs hr h, FailRecord.merge,
      satInc_eq]
    rfl
  · rw [hoffer, takeOffer_drop (s := { s with messages.offers := rest }) hkey hfull, dropOffer, satInc_eq]
    rfl

/-! ## REFRESH_ENABLE and REFRESH_DISABLE (R69, R101, R102) -/

theorem PerRank.modify_self {α : Type} (p : PerRank α) (r : Rank) {f : α → α} (h : ∀ x, f x = x) :
    p.modify r f = p :=
  PerRank.ext_get fun q => by simp [h]

/-- A rank is enabled or left, by a test. -/
theorem enableRank_if (c : Bool) (r : Rank) (s : State) :
    (if c = true then enableRank r s else s) = { s with
      refresh.enable := s.refresh.enable.modify r fun x => x || c
      ranks := s.ranks.modify r fun k =>
        if c = true then { k with debt := 0, interval := fullInterval s r } else k } := by
  cases c with
  | true =>
    simp only [if_true, Bool.or_true]
    rfl
  | false =>
    simp only [Bool.false_eq_true, if_false, Bool.or_false, PerRank.modify_self _ r fun _ => rfl]

/-- A rank is disabled or left, by a test. -/
theorem disableRank_if (c : Bool) (r : Rank) (s : State) :
    (if c = true then disableRank r s else s) = { s with
      refresh.enable := s.refresh.enable.modify r fun x => x && !c
      ranks := s.ranks.modify r fun k =>
        if c = true then { k with debt := 0, interval := .stopped } else k } := by
  cases c with
  | true =>
    simp only [if_true, Bool.not_true, Bool.and_false]
    rfl
  | false =>
    simp only [Bool.false_eq_true, if_false, Bool.not_false, Bool.and_true,
      PerRank.modify_self _ r fun _ => rfl]

/-- Each rank the mask names is enabled. -/
theorem forNamed_enableRank (mask : BitVec 2) (s : State) :
    ∃ x y, forNamed mask enableRank s = { s with refresh.enable := x, ranks := y } ∧
      (∀ r, x.get r = (s.refresh.enable.get r || maskNames mask r)) ∧
      ∀ r, y.get r = if maskNames mask r then
        { rankAt s r with debt := 0, interval := fullInterval s r } else rankAt s r := by
  simp only [forNamed, bothRanks, List.foldl, enableRank_if]
  refine ⟨_, _, rfl, fun r => ?_, fun r => ?_⟩
  · cases r <;> simp
  · cases r with
    | r0 => simp [rankAt]
    | r1 =>
      simp only [PerRank.get_modify, reduceCtorEq, if_false, if_true]
      rfl

/-- Each rank the mask names is disabled. -/
theorem forNamed_disableRank (mask : BitVec 2) (s : State) :
    ∃ x y, forNamed mask disableRank s = { s with refresh.enable := x, ranks := y } ∧
      (∀ r, x.get r = (s.refresh.enable.get r && !maskNames mask r)) ∧
      ∀ r, y.get r = if maskNames mask r then { rankAt s r with debt := 0, interval := .stopped }
        else rankAt s r := by
  simp only [forNamed, bothRanks, List.foldl, disableRank_if]
  refine ⟨_, _, rfl, fun r => ?_, fun r => ?_⟩
  · cases r <;> simp
  · cases r <;> simp [rankAt]

theorem inRange_refreshInterval (t : TimingSet) :
    inRange t .refreshInterval = true ↔ 256 ≤ t.refreshInterval.toNat := by
  have : t.refreshInterval.toNat < 65536 := t.refreshInterval.isLt
  rw [inRange, Bool.and_eq_true, decide_eq_true_eq, decide_eq_true_eq]
  change 256 ≤ t.refreshInterval.toNat ∧ t.refreshInterval.toNat ≤ 65535 ↔ _
  omega

theorem inRange_refreshTime (t : TimingSet) :
    inRange t .refreshTime = true ↔ 32 ≤ t.refreshTime.toNat ∧ t.refreshTime.toNat ≤ 1023 := by
  rw [inRange, Bool.and_eq_true, decide_eq_true_eq, decide_eq_true_eq]
  exact Iff.rfl

theorem refreshEnableCommand_of_fault {s : State} {mask : BitVec 2} {i : Nat}
    (h : refreshPairFault s = some i) :
    refreshEnableCommand mask s = answer .configInvalid (.ofNat 8 i) (takeCommand 10 mask s) := by
  rw [refreshEnableCommand, h]

theorem refreshEnableCommand_of_valid {s : State} {mask : BitVec 2} (h : refreshPairFault s = none) :
    refreshEnableCommand mask s =
      answer .accepted 0 (forNamed mask enableRank (loadRefreshPair (takeCommand 10 mask s))) := by
  rw [refreshEnableCommand, h]

/-- Settles O32: the mask names the ranks, each changed alone. -/
theorem refreshCommandsSetNamedRanks : Obligations.RefreshCommandsSetNamedRanks := by
  intro s mask interval time answered named intervalOk timeOk
  have hinterval : inRange s.timing.stored .refreshInterval = true ↔ intervalOk := inRange_refreshInterval _
  have htime : inRange s.timing.stored .refreshTime = true ↔ timeOk := inRange_refreshTime _
  have hfault : refreshPairFault s =
      if intervalOk then if timeOk then none else some 18 else some 17 := by
    simp only [refreshPairFault, ← hinterval, ← htime]
    cases inRange s.timing.stored .refreshInterval <;> cases inRange s.timing.stored .refreshTime <;> rfl
  refine ⟨fun h => ?_, fun h h' => ?_, fun h h' => ?_, ?_⟩
  · exact congrArg Host.Outcome.next (refreshEnableCommand_of_fault (hfault.trans (if_neg h)))
  · exact congrArg Host.Outcome.next
      (refreshEnableCommand_of_fault (hfault.trans ((if_pos h).trans (if_neg h'))))
  · obtain ⟨x, y, heq, hx, hy⟩ := forNamed_enableRank mask (loadRefreshPair (takeCommand 10 mask s))
    have hcommand := refreshEnableCommand_of_valid (mask := mask)
      (hfault.trans ((if_pos h).trans (if_pos h')))
    refine ⟨_, congrArg Host.Outcome.next hcommand, ?_⟩
    rw [heq]
    refine ⟨rfl, fun r => ⟨fun hr => ?_, fun hr => ?_⟩, rfl⟩
    · have hr : maskNames mask r = false := Bool.eq_false_iff.mpr hr
      exact ⟨(hx r).trans (by rw [hr, Bool.or_false]; rfl), (hy r).trans (by rw [hr]; rfl)⟩
    · have hr : maskNames mask r = true := hr
      refine ⟨(hx r).trans (by rw [hr, Bool.or_true]), (hy r).trans ?_⟩
      rw [hr, if_pos rfl, fullInterval]
      have hpresent : isPresent (loadRefreshPair (takeCommand 10 mask s)) r = isPresent s r := rfl
      rw [hpresent]
      cases isPresent s r <;> rfl
  · obtain ⟨x, y, heq, hx, hy⟩ := forNamed_disableRank mask (takeCommand 11 mask s)
    refine ⟨refreshDisableCommand mask s, rfl, ?_⟩
    rw [refreshDisableCommand, heq]
    refine ⟨fun r => ⟨fun hr => ?_, fun hr => ?_⟩, rfl⟩
    · have hr : maskNames mask r = false := Bool.eq_false_iff.mpr hr
      exact ⟨(hx r).trans (by rw [hr, Bool.not_false, Bool.and_true]; rfl), (hy r).trans (by rw [hr]; rfl)⟩
    · have hr : maskNames mask r = true := hr
      exact ⟨(hx r).trans (by rw [hr, Bool.not_true, Bool.and_false]), (hy r).trans (by rw [hr]; rfl)⟩

/-! ## Interval expiries (R103, R104) -/

theorem intervalTimer_isDue_iff (t : IntervalTimer) : t.isDue = true ↔ t = .running 0 := by
  rcases t with _ | (_ | n) | n <;> simp [IntervalTimer.isDue]

theorem intervalExpiry_of_due {s : State} {r : Rank} (h : (rankAt s r).interval = .running 0) :
    intervalExpiry r s = takeIntervalExpiry r s := by
  rw [intervalExpiry, if_pos ((intervalTimer_isDue_iff _).mpr h)]

theorem intervalExpiry_of_not_due {s : State} {r : Rank} (h : (rankAt s r).interval ≠ .running 0) :
    intervalExpiry r s = s := by
  rw [intervalExpiry, if_neg (mt (intervalTimer_isDue_iff _).mp h)]

/-- Settles O33: a due interval raises the debt below 8, and at 8 the refresh is missed. -/
theorem intervalExpiryRaisesDebt : Obligations.IntervalExpiryRaisesDebt := by
  intro s r full
  refine ⟨fun h => congrArg Host.Outcome.next (intervalExpiry_of_not_due h), fun h hdebt => ?_,
    fun h hdebt => ?_⟩
  · have hdebt : (rankAt s r).debt < Config.urgentDebt := Nat.lt_succ_of_le hdebt
    refine congrArg Host.Outcome.next ((intervalExpiry_of_due h).trans ?_)
    rw [takeIntervalExpiry, if_pos hdebt]
    rfl
  · have hdebt : ¬ (rankAt s r).debt < Config.urgentDebt := by
      rw [hdebt]
      exact Nat.lt_irrefl 8
    refine congrArg Host.Outcome.next ((intervalExpiry_of_due h).trans ?_)
    have hmissed : satInc s.refresh.missed = .ofNat 8 (min (s.refresh.missed.toNat + 1) 255) := satInc_eq _
    rw [takeIntervalExpiry, if_neg hdebt, ← hmissed]
    cases hmiss : s.refresh.haltOnMiss with
    | false => exact if_neg (Bool.eq_false_iff.mp hmiss)
    | true => exact if_pos hmiss

end Sys2Proof.Machine
end

/-!
Register writes by the kind of their word: taken in any run state, in IDLE alone, or a bad access (R14, R67, R170,
R172, R183, R186), and the alert samples (R59, R160, R192).
-/
section

namespace Sys2Proof.Machine

/-! ## Writes taken in every run state -/

theorem extractLsb'_zero (v : Word) (n : Nat) : v.extractLsb' 0 n = v.setWidth n := by
  refine BitVec.eq_of_toNat_eq ?_
  rw [BitVec.extractLsb'_toNat, BitVec.toNat_setWidth, Nat.shiftRight_zero]

theorem viewAt_eq (l : List FailRecord) (i : Nat) :
    viewAt l i = if h : i < l.length then .byIndex l[i] else .empty := by
  unfold viewAt
  by_cases h : i < l.length
  · rw [dif_pos h, List.getElem?_eq_getElem h]
  · rw [dif_neg h, List.getElem?_eq_none (Nat.le_of_not_lt h)]

theorem ne_zero_iff_getLsbD {n : Nat} (x : BitVec n) : x ≠ 0 ↔ ∃ i : Fin n, x.getLsbD i.val = true := by
  constructor
  · intro h
    by_contra hnone
    refine h (BitVec.eq_of_getLsbD_eq fun i hi => ?_)
    rw [Bool.eq_false_iff.mpr fun hx => hnone ⟨⟨i, hi⟩, hx⟩, BitVec.ofNat_eq_ofNat, BitVec.getLsbD_zero]
  · rintro ⟨i, hi⟩ rfl
    rw [BitVec.ofNat_eq_ofNat, BitVec.getLsbD_zero] at hi
    cases hi

/-- The interrupt line is active while a set flag has its enable (R170). -/
theorem interruptLine_iff (s : State) :
    interruptLine s = true ↔
      ∃ i : Fin 6, s.run.flags.getLsbD i.val = true ∧ s.run.enables.getLsbD i.val = true := by
  rw [interruptLine, bne_iff_ne, ne_zero_iff_getLsbD]
  simp only [BitVec.getLsbD_and, Bool.and_eq_true]

theorem busAccess_write {a : BusAccess} {w : WindowWord} (hw : a.word = some w) (hdir : a.isWrite = true)
    (s : State) : busAccess a s = writeDefined w a.be a.data s := by
  rw [busAccess, hw]
  exact if_pos hdir

theorem busAccess_read {a : BusAccess} {w : WindowWord} (hw : a.word = some w) (hdir : a.isWrite = false)
    (s : State) : busAccess a s = readDefined w a.be s := by
  rw [busAccess, hw]
  exact if_neg (Bool.eq_false_iff.mp hdir)

theorem busAccess_undefined {a : BusAccess} (hw : a.word = none) (s : State) :
    busAccess a s = if a.isWrite then countBadAccess s else badRead s := by
  rw [busAccess, hw]

/-- Settles O34: a full write changes its register, and the interrupt line follows flags and enables. -/
theorem anyStateWritesAreTaken : Obligations.AnyStateWritesAreTaken := by
  intro s v
  refine ⟨fun i => ?_, rfl, ?_, rfl, ?_, ?_, rfl, ?_, fun i a hw hdir hbe => ?_, interruptLine_iff s, rfl⟩
  · exact congrArg (fun x => Host.Outcome.next { s with pattern.slots := s.pattern.slots.set i x })
      (extractLsb'_zero v 8)
  · exact congrArg (fun x => Host.Outcome.next { s with reads.failLimit := x }) (extractLsb'_zero v 16)
  · exact congrArg (fun x => Host.Outcome.next { s with run.flags := s.run.flags &&& ~~~ x })
      (extractLsb'_zero v 6)
  · exact congrArg (fun x => Host.Outcome.next { s with run.enables := x }) (extractLsb'_zero v 6)
  · rw [← viewAt_eq, ← extractLsb'_zero]
    rfl
  · refine congrArg Host.Outcome.next ((busAccess_write hw hdir s).trans ?_)
    rw [writeDefined, hbe]
    rfl

/-! ## Writes taken in IDLE alone -/

theorem countBadAccess_eq (s : State) :
    countBadAccess s = { s with
      host.badAccesses := .ofNat 8 (min (s.host.badAccesses.toNat + 1) 255) } := by
  rw [countBadAccess, satInc_eq]
  rfl

theorem ifIdle_of_idle {s : State} (h : s.run.state = .idle) (f : State → State) : ifIdle f s = f s :=
  if_pos h

theorem ifIdle_of_not_idle {s : State} (h : s.run.state ≠ .idle) (f : State → State) :
    ifIdle f s = countBadAccess s :=
  if_neg h

theorem TimingSet.get_put_same (t : TimingSet) (p : TimingParam) (v : BitVec 16) :
    (t.put p v).get p = v := by
  cases p <;> rfl

theorem TimingSet.get_put_other (t : TimingSet) {p q : TimingParam} (h : q ≠ p) (v : BitVec 16) :
    (t.put p v).get q = t.get q := by
  cases p <;> cases q <;> first | exact absurd rfl h | rfl

/-- A taken geometry write finds the intake queue empty or not. -/
def geometryTaken (v : Word) (s : State) : State :=
  if s.intake.queue.isEmpty then writeGeometry v s else countBadAccess s

/-- A geometry write in IDLE finds the queue empty or not. -/
theorem geometryWrite_of_idle {s : State} (h : s.run.state = .idle) (v : Word) :
    geometryWrite 0xF#4 v s = if s.intake.queue.isEmpty then writeGeometry v s else countBadAccess s :=
  ifIdle_of_idle h (geometryTaken v)

/-- The write leaves the number of ranks present. -/
theorem isPresent_r1_written (s : State) (v : Word) :
    (isPresent { s with timing.geometry := geometryOfWord v } .r1 = isPresent s .r1) ↔
      (v.extractLsb' 0 2 = 2#2 ↔ s.timing.geometry.ranksPresent = 2#2) := by
  have h1 : isPresent { s with timing.geometry := geometryOfWord v } .r1 = true ↔
      v.extractLsb' 0 2 = 2#2 := beq_iff_eq
  have h2 : isPresent s .r1 = true ↔ s.timing.geometry.ranksPresent = 2#2 := beq_iff_eq
  rw [Bool.eq_iff_iff, h1, h2]

/-- Settles O35: in IDLE the register is written, in another run state the access is bad. -/
theorem idleOnlyWrites : Obligations.IdleOnlyWrites := by
  intro s v bad
  have hbad {t : State} (h : t = countBadAccess s) : Host.Outcome.next t = bad := by
    rw [h, countBadAccess_eq]
  refine ⟨fun h => ⟨fun p => hbad (ifIdle_of_not_idle h _), fun k => hbad (ifIdle_of_not_idle h _),
    hbad (ifIdle_of_not_idle h (geometryTaken v))⟩, fun h => ⟨fun p => ?_, fun k => ?_, fun hqueue => ?_,
    fun hqueue hpresent => ?_⟩⟩
  · refine ⟨_, congrArg Host.Outcome.next (ifIdle_of_idle h (writeTiming p v)), ?_, fun q hq => ?_, rfl⟩
    · exact (TimingSet.get_put_same _ _ _).trans (extractLsb'_zero v 16)
    · exact TimingSet.get_put_other _ hq _
  · refine congrArg Host.Outcome.next ((ifIdle_of_idle h (writeTap k v)).trans ?_)
    rw [writeTap, extractLsb'_zero]
    rfl
  · refine hbad ((geometryWrite_of_idle h v).trans (if_neg ?_))
    rwa [List.isEmpty_iff]
  · refine congrArg Host.Outcome.next ((geometryWrite_of_idle h v).trans ?_)
    rw [if_pos (List.isEmpty_iff.mpr hqueue), writeGeometry, if_pos ((isPresent_r1_written s v).mpr hpresent)]
    rfl

/-! ## A change of the ranks present (R14, R63, R110) -/

theorem rankCountChanged_eq (s : State) :
    rankCountChanged s =
      modifyRank .r1 (fun k => { k with debt := 0, interval := restartedInterval s .r1 })
        (loseRank .r1 s) := rfl

theorem bankAt_rankCountChanged (s : State) (b : BankAddr) :
    bankAt (rankCountChanged s) b = if b.rank = .r1 then (bankAt s b).alert else bankAt s b :=
  bankAt_loseRank .r1 s b

theorem rankAt_rankCountChanged (s : State) (r : Rank) :
    rankAt (rankCountChanged s) r =
      if r = .r1 then
        { (rankAt s r).needRecovery with debt := 0, interval := restartedInterval s .r1 }
      else rankAt s r := by
  rw [rankCountChanged_eq, rankAt_modifyRank, rankAt_loseRank]
  split <;> rfl

/-- Settles O36: the written geometry is the word's, and a changed rank count loses rank 1. -/
theorem rankCountChangeResetsRankOne : Obligations.RankCountChangeResetsRankOne := by
  intro s v h hqueue hpresent
  have hcommand : geometryWrite 0xF#4 v s =
      rankCountChanged { s with timing.geometry := geometryOfWord v } := by
    rw [geometryWrite_of_idle h, if_pos (List.isEmpty_iff.mpr hqueue), writeGeometry,
      if_neg (mt (isPresent_r1_written s v).mp hpresent)]
  refine ⟨_, congrArg Host.Outcome.next hcommand, rfl, fun b hb => ?_, fun b hb => ?_, ?_, ?_, rfl, rfl⟩
  · rw [bankAt_rankCountChanged, if_pos hb]
    rfl
  · rw [bankAt_rankCountChanged, hb, if_neg (by decide)]
    rfl
  · have h1 : isPresent { s with timing.geometry := geometryOfWord v } .r1 = true ↔
        v.extractLsb' 0 2 = 2#2 := beq_iff_eq
    have hinterval : restartedInterval { s with timing.geometry := geometryOfWord v } .r1 =
        if v.extractLsb' 0 2 = 2#2 ∧ s.refresh.enable.r1 then .running (tclk s .refreshInterval)
        else .stopped :=
      (restartedInterval_eq _ _).trans (if_congr (and_congr h1 Iff.rfl) rfl rfl)
    rw [rankAt_rankCountChanged, if_pos rfl, hinterval]
    rfl
  · rw [rankAt_rankCountChanged, if_neg (by decide)]
    rfl

/-! ## Accesses with fewer than four byte enables (R183) -/

section Narrow

variable {be : BitVec 4} (h : be ≠ 0xF#4)
include h

theorem ifFull_narrow (f : State → State) (s : State) : ifFull be f s = countBadAccess s :=
  if_neg (mt (fullEnables_iff be).mp h)

theorem readDefined_narrow (w : WindowWord) (s : State) : readDefined w be s = badRead s := by
  rw [readDefined, Bool.eq_false_iff.mpr (mt (fullEnables_iff be).mp h), Bool.false_and]
  rfl

theorem writeDefined_narrow (w : WindowWord) (v : Word) (s : State) :
    writeDefined w be v s = countBadAccess s := by
  cases w
  case badAccess => exact ifFull_narrow h (fun s => { s with host.badAccesses := 0 }) s
  case geometry => exact ifFull_narrow h (ifIdle (geometryTaken v)) s
  all_goals first | rfl | exact ifFull_narrow h _ s

end Narrow

theorem badRead_eq (s : State) :
    badRead s = { s with
      host.readData := 0
      host.badAccesses := .ofNat 8 (min (s.host.badAccesses.toNat + 1) 255) } := by
  rw [badRead, countBadAccess_eq]
  rfl

/-- Settles O37: a narrow write is a bad access for each word, by its row. -/
theorem narrowAccessesAreBad : Obligations.NarrowAccessesAreBad := by
  intro s be v h bad
  have hbad (f : State → State) : ifFull be f s = bad :=
    (ifFull_narrow h f s).trans (countBadAccess_eq s)
  have hread (w : WindowWord) : readDefined w be s = { bad with host.readData := 0 } :=
    (readDefined_narrow h w s).trans (badRead_eq s)
  have hnext {x y : State} (e : x = y) :
      (Host.Outcome.next x : Host.Outcome State Fault Refusal) = .next y := congrArg _ e
  refine ⟨fun p => hnext (hbad _), hnext (hbad (ifIdle (geometryTaken v))), fun i => hnext (hbad _),
    hnext (hbad _), fun k => hnext (hbad _), hnext (hbad _), hnext (hbad _), hnext (hbad _),
    hnext (hbad _), hnext (hbad _), hnext (hbad fun s => { s with host.badAccesses := 0 }),
    fun k => hnext (hread _), fun i => hnext (hread _), fun a ha => hnext ?_⟩
  subst ha
  cases hw : a.word with
  | none =>
    rw [busAccess_undefined hw, badRead_eq, countBadAccess_eq]
  | some w =>
    cases hdir : a.isWrite with
    | true => exact (busAccess_write hw hdir s).trans ((writeDefined_narrow h w _ s).trans (countBadAccess_eq s))
    | false => exact (busAccess_read hw hdir s).trans (hread w)

/-! ## Alert samples (R59, R160, R192) -/

theorem presentRanks_eq (s : State) :
    presentRanks s = .r0 :: (if isPresent s .r1 = true then [.r1] else []) := by
  have h0 : isPresent s .r0 = true := rfl
  simp only [presentRanks, bothRanks, List.filter_cons, h0, if_true, List.filter_nil]

/-- Each present rank is lost. -/
theorem loseBanks_eq (s : State) :
    loseBanks s = if isPresent s .r1 = true then loseRank .r1 (loseRank .r0 s) else loseRank .r0 s := by
  rw [loseBanks, presentRanks_eq]
  split <;> rfl

theorem bankAt_loseBanks (s : State) (b : BankAddr) :
    bankAt (loseBanks s) b = if isPresent s b.rank then (bankAt s b).alert else bankAt s b := by
  have h0 : isPresent s .r0 = true := rfl
  rw [loseBanks_eq]
  cases hr : b.rank <;> cases isPresent s .r1 <;> simp [bankAt_loseRank, hr, h0]

theorem rankAt_loseBanks (s : State) (r : Rank) :
    rankAt (loseBanks s) r = if isPresent s r then (rankAt s r).needRecovery else rankAt s r := by
  have h0 : isPresent s .r0 = true := rfl
  rw [loseBanks_eq]
  cases r <;> cases isPresent s .r1 <;> simp [rankAt_loseRank, h0]

theorem pendingClose_loseBanks (s : State) :
    (loseBanks s).arbiter.pendingClose = s.arbiter.pendingClose.filter fun b => !isPresent s b.rank := by
  have h0 : isPresent s .r0 = true := rfl
  have hlose (r : Rank) (s : State) : (loseRank r s).arbiter.pendingClose =
      s.arbiter.pendingClose.filter fun b => b.rank != r := rfl
  rw [loseBanks_eq]
  cases h1 : isPresent s .r1
  · rw [if_neg Bool.false_ne_true, hlose]
    refine List.filter_congr fun b _ => ?_
    cases hr : b.rank <;> simp [h0, h1]
  · rw [if_pos rfl, hlose, hlose, List.filter_filter]
    refine List.filter_congr fun b _ => ?_
    cases hr : b.rank <;> simp [h0, h1]

/-- Of the state a loss of ranks changes the banks, the ranks and the pending close order. -/
theorem loseBanks_changes (s : State) :
    loseBanks s = { s with
      banks := (loseBanks s).banks, ranks := (loseBanks s).ranks
      arbiter.pendingClose := (loseBanks s).arbiter.pendingClose } := by
  obtain ⟨_, _, _, h⟩ := loseBanks_frame s
  rw [h]

/-- The alert taken: the count, the present ranks lost, and a halt request while work is in progress. -/
theorem takeAlert_eq (s : State) :
    takeAlert s = { s with
      run.alerts := satInc s.run.alerts, banks := (loseBanks s).banks, ranks := (loseBanks s).ranks
      arbiter.pendingClose := (loseBanks s).arbiter.pendingClose
      messages.haltRequests :=
        if s.run.state.works then s.messages.haltRequests ++ [.targetAlert]
        else s.messages.haltRequests } := by
  have hlost := loseBanks_changes { s with run.alerts := satInc s.run.alerts }
  have hsame : loseBanks { s with run.alerts := satInc s.run.alerts } =
      { loseBanks s with run.alerts := satInc s.run.alerts } := by
    have hpresent : isPresent { s with run.alerts := satInc s.run.alerts } .r1 = isPresent s .r1 := rfl
    rw [loseBanks_eq, loseBanks_eq, hpresent]
    split <;> rfl
  rw [hsame] at hlost
  unfold takeAlert
  dsimp only
  rw [hsame, hlost]
  dsimp only
  cases s.run.state.works <;> rfl

/-- Settles O40: a rising sample takes the alert, and any other changes the sample alone. -/
theorem alertSamples : Obligations.AlertSamples := by
  refine ⟨rfl, fun s => ⟨⟨softResetCommand s, rfl, ?_⟩, rfl, fun h => congrArg Host.Outcome.next (if_pos h),
    fun h => ?_⟩⟩
  · rw [softResetCommand_eq]
  · have hactive : targetAlert s = takeAlert { s with capture.alertWasActive := true } :=
      if_neg (Bool.eq_false_iff.mp h)
    refine ⟨_, congrArg Host.Outcome.next (hactive.trans (takeAlert_eq _)), rfl, satInc_eq s.run.alerts,
      bankAt_loseBanks { s with capture.alertWasActive := true },
      rankAt_loseBanks { s with capture.alertWasActive := true },
      pendingClose_loseBanks { s with capture.alertWasActive := true }, ?_, rfl⟩
    exact if_congr (works_iff s.run.state) rfl rfl

end Sys2Proof.Machine
end

/-!
What the words of the register window read: the completion port, the fail record words, and the rest of the
words (R167, R149, R183, R185, R186, R189).
-/
section

namespace Sys2Proof.Machine

/-! ## The ports (R149, R167, R189) -/

theorem Kind.code_lt (k : Kind) : k.code < 8 := by cases k <;> decide

theorem Status.code_lt (t : Status) : t.code < 4 := by cases t <;> decide

theorem readDefined_of_content {s : State} {w : WindowWord} (h : hasContent s w = true) :
    readDefined w 0xF#4 s = returnWord (readWord s w) s :=
  if_pos h

theorem readDefined_of_no_content {s : State} {w : WindowWord} (h : hasContent s w = false) :
    readDefined w 0xF#4 s = badRead s :=
  if_neg (Bool.eq_false_iff.mp h)

/-- The completion port shows the oldest record. -/
theorem completionPortRead_eq {s : State} {c : CompletionRecord} {rest : List CompletionRecord}
    (h : s.run.completions = c :: rest) (k : Quad) :
    readDefined (.completion k) 0xF#4 s = { s with host.readData := completionWord c k } := by
  have hcontent : hasContent s (.completion k) = true := by rw [hasContent, h]; rfl
  have hword : readWord s (.completion k) = completionWord c k := by rw [readWord, h]; rfl
  rw [readDefined_of_content hcontent, hword]
  rfl

theorem failRecordRead_eq {s : State} {r : FailRecord} (h : s.failLog.view.record? = some r) (i : Fin 5) :
    readDefined (.failRecord i) 0xF#4 s = { s with host.readData := failWord r i } := by
  have hcontent : hasContent s (.failRecord i) = true := by rw [hasContent, h]; rfl
  have hword : readWord s (.failRecord i) = failWord r i := by rw [readWord, h]; rfl
  rw [readDefined_of_content hcontent, hword]
  rfl

theorem completionWord_fields (c : CompletionRecord) (hissued : c.issued < 2 ^ 25) :
    (completionWord c .q0).extractLsb' 0 8 = c.seq ∧
      ((completionWord c .q0).extractLsb' 8 3).toNat = c.kind.code ∧
      ((completionWord c .q0).extractLsb' 12 2).toNat = c.status.code ∧
      ((completionWord c .q1).extractLsb' 0 25).toNat = c.issued ∧
      (completionWord c .q2).extractLsb' 0 16 = c.miscompares ∧
      (completionWord c .q2).extractLsb' 16 8 = c.lost := by
  have hissued : c.issued < 33554432 := hissued
  simp [completionWord, BitVec.extractLsb'_or, extract_field, extract_other_field, Nat.mod_eq_of_lt,
    c.kind.code_lt, c.status.code_lt, hissued]

theorem detailWord_sweep_fields (r : SweepResult) :
    (detailWord (.sweep r)).extractLsb' 0 5 = r.first ∧ (detailWord (.sweep r)).extractLsb' 8 5 = r.last ∧
      (detailWord (.sweep r)).extractLsb' 16 6 = r.width ∧
      (detailWord (.sweep r)).extractLsb' 24 5 = r.tapLeft ∧
      (detailWord (.sweep r)).getLsbD 31 = r.found := by
  simp [detailWord, BitVec.extractLsb'_or, extract_field, extract_other_field, extract_other_flagField,
    getLsbD_flagField, getLsbD_other_field, -BitVec.getLsbD_eq_getElem]

/-- A field that starts at bit 0 is its value. -/
theorem field_zero_setWidth {n : Nat} (v : BitVec n) : field 0 n v.toNat = v.setWidth 32 := by
  refine BitVec.eq_of_toNat_eq ?_
  rw [field, BitVec.toNat_ofNat, BitVec.toNat_setWidth, pow_zero, Nat.mul_one, Nat.mod_eq_of_lt v.isLt]

theorem failWord_fields (r : FailRecord) (hcol : r.key.col < 2 ^ 7) (hrow : r.key.row < 2 ^ 17) :
    ((failWord r 0).extractLsb' 0 1).toNat = r.key.bank.rank.num ∧
      ((failWord r 0).extractLsb' 1 2).toNat = r.key.bank.bankSet.num ∧
      ((failWord r 0).extractLsb' 3 2).toNat = r.key.bank.bank.num ∧
      ((failWord r 0).extractLsb' 8 7).toNat = r.key.col ∧
      ((failWord r 1).extractLsb' 0 17).toNat = r.key.row ∧ failWord r 2 = r.laneMask ∧
      (failWord r 3).extractLsb' 0 8 = r.beatMask ∧ (failWord r 3).extractLsb' 8 8 = r.firstSeq ∧
      (failWord r 3).extractLsb' 16 8 = r.lastSeq ∧ (failWord r 4).extractLsb' 0 16 = r.hits := by
  have hcol : r.key.col < 128 := hcol
  have hrow : r.key.row < 131072 := hrow
  have hrank : r.key.bank.rank.num ≤ 1 := Nat.le_of_lt_succ (rank_num_lt _)
  simp [failWord, BitVec.extractLsb'_or, extract_field, extract_other_field, Nat.mod_eq_of_lt,
    hrank, quad_num_lt, hcol, hrow]

/-- Settles O38: the port words are cut into the fields of the oldest record. -/
theorem portReadsShowTheRecord : Obligations.PortReadsShowTheRecord := by
  refine ⟨⟨rfl, rfl, rfl, rfl, rfl, rfl⟩, ⟨rfl, rfl, rfl, rfl⟩, ⟨rfl, fun _ => rfl, fun _ => rfl⟩,
    fun s => ?_⟩
  intro bad
  have hbad {w : WindowWord} (h : hasContent s w = false) :
      (Host.Outcome.next (readDefined w 0xF#4 s) : Host.Outcome State Fault Refusal) = bad :=
    congrArg _ ((readDefined_of_no_content h).trans (badRead_eq s))
  refine ⟨fun h k => hbad ?_, fun h i => hbad ?_, fun c rest h hissued => ?_, fun r h hcol hrow => ?_⟩
  · rw [hasContent, h]
    rfl
  · rw [hasContent, h]
    rfl
  · obtain ⟨hseq, hkind, hstatus, hissued, hmiscompares, hlost⟩ := completionWord_fields c hissued
    have hdetail : completionWord c .q3 = detailWord c.detail := rfl
    refine ⟨completionWord c, fun k => congrArg _ (completionPortRead_eq h k), hseq, hkind, hstatus, hissued,
      hmiscompares, hlost, fun hd => ?_, fun m hd => ?_, fun r hd => ?_⟩
    · rw [hdetail, hd]
      rfl
    · rw [hdetail, hd]
      exact field_zero_setWidth m
    · rw [hdetail, hd]
      exact detailWord_sweep_fields r
  · exact ⟨failWord r, fun i => congrArg _ (failRecordRead_eq h i), failWord_fields r hcol hrow⟩

/-! ## Writes to words that take none (R183, R185) -/

/-- The words that a write never changes: read-only words and ports (R186). -/
def ReadOnly : WindowWord → Bool
  | .family | .revision | .result | .statusRun | .statusQueue | .statusCounts | .statusEvents
  | .statusAborts | .bankStates _ | .rankStates | .statistic _ | .refreshStatus | .refreshMissed
  | .completion _ | .failCount | .failOverflow | .viewState | .failRecord _ | .sweepEntry _
  | .sweepStatus => true
  | _ => false

theorem writeDefined_readOnly {w : WindowWord} (h : ReadOnly w = true) (be : BitVec 4) (v : Word)
    (s : State) : writeDefined w be v s = countBadAccess s := by
  cases w <;> first | rfl | cases h

/-- The read-only words that stand alone, by name. -/
def readOnlySingles : List (Option WindowWord) :=
  [some .family, some .revision, some .result, some .statusRun, some .statusQueue, some .statusCounts,
    some .statusEvents, some .statusAborts, some .rankStates, some .refreshStatus, some .refreshMissed,
    some .failCount, some .failOverflow, some .viewState, some .sweepStatus]

/-- The read-only words and the ports, by name. -/
def readOnlyWords : List (Option WindowWord) :=
  readOnlySingles ++
  (List.range 4).map (fun k => some (WindowWord.bankStates (.ofNum k))) ++
  (List.finRange 8).map (fun i => some (WindowWord.statistic i)) ++
  (List.range 4).map (fun k => some (WindowWord.completion (.ofNum k))) ++
  (List.finRange 5).map (fun i => some (WindowWord.failRecord i)) ++
  (List.range 32).map (fun t => some (WindowWord.sweepEntry (.ofNat 5 t)))

theorem readOnly_of_mem {x : Option WindowWord} (h : x ∈ readOnlyWords) :
    ∃ w, x = some w ∧ ReadOnly w = true := by
  have hall : readOnlyWords.all (fun x => x.any ReadOnly) = true := by decide
  have hx := List.all_eq_true.mp hall x h
  cases x with
  | none => cases hx
  | some w => exact ⟨w, rfl, hx⟩

theorem engineWrite_unnamed {v : Word} (h : v.toNat % 16 = 0 ∨ 12 ≤ v.toNat % 16) (s : State) :
    engineWrite v s = countBadAccess s := by
  rw [← extractLsb'_zero_four_toNat] at h
  unfold engineWrite
  split
  case h_12 => rfl
  all_goals omega

/-! ## Bits that no field defines read 0 (R186, R189) -/

theorem getLsbD_of_and_not {x m : Word} (h : x &&& ~~~ m = 0#32) {i : Nat} (hi : i < 32)
    (hx : x.getLsbD i = true) : m.getLsbD i = true := by
  have hbit := congrArg (BitVec.getLsbD · i) h
  simpa [hx, hi, -BitVec.getLsbD_eq_getElem] using hbit

/-- A field of ones covers every value of the field. -/
theorem field_and_not {lo len : Nat} (v : Nat) {m : Word} (hlo : lo + len ≤ 32)
    (hm : field lo len (2 ^ len - 1) &&& ~~~ m = 0#32) : field lo len v &&& ~~~ m = 0#32 := by
  refine BitVec.eq_of_getLsbD_eq fun i hi => ?_
  rw [BitVec.getLsbD_and, BitVec.getLsbD_not, BitVec.getLsbD_zero, getLsbD_field lo len v i hlo]
  by_cases h : lo ≤ i ∧ i < lo + len
  · have hones : (field lo len (2 ^ len - 1)).getLsbD i = true := by
      rw [getLsbD_field lo len _ i hlo, Nat.testBit_two_pow_sub_one]
      simp only [h, and_self, decide_true, Bool.true_and, decide_eq_true_eq]
      omega
    rw [getLsbD_of_and_not hm hi hones]
    simp
  · simp [h]

theorem setWidth_and_not {n : Nat} (v : BitVec n) {m : Word}
    (hm : (BitVec.allOnes n).setWidth 32 &&& ~~~ m = 0#32) : v.setWidth 32 &&& ~~~ m = 0#32 := by
  refine BitVec.eq_of_getLsbD_eq fun i hi => ?_
  rw [BitVec.getLsbD_and, BitVec.getLsbD_not, BitVec.getLsbD_zero, BitVec.getLsbD_setWidth]
  by_cases h : i < n
  · have hones : ((BitVec.allOnes n).setWidth 32).getLsbD i = true := by
      rw [BitVec.getLsbD_setWidth, BitVec.getLsbD_allOnes]
      simp [h, hi]
    rw [getLsbD_of_and_not hm hi hones]
    simp
  · rw [BitVec.getLsbD_of_ge v i (Nat.le_of_not_lt h)]
    simp

theorem or_and_not {x y m : Word} (hx : x &&& ~~~ m = 0#32) (hy : y &&& ~~~ m = 0#32) :
    (x ||| y) &&& ~~~ m = 0#32 := by
  rw [BitVec.and_or_distrib_right, hx, hy]
  rfl

/-- The bits of each word that a field defines. -/
def definedBits : WindowWord → Word
  | .family => 0x0000FFFF#32
  | .revision => 0x000000FF#32
  | .command => 0x0000030F#32
  | .result => 0x0000FFFF#32
  | .statusRun => 0x00FF71F7#32
  | .statusQueue => 0x00FFFF3F#32
  | .statusCounts => 0x7DF1FF1F#32
  | .statusEvents => 0xFFFFFF0F#32
  | .statusAborts => 0x000000FF#32
  | .rankStates => 0x00000303#32
  | .timing _ => 0x0000FFFF#32
  | .geometry => 0x00FF1F03#32
  | .refreshStatus => 0x0000F7F7#32
  | .refreshMissed => 0x000000FF#32
  | .haltOnMiss => 0x00000001#32
  | .slot _ => 0x000000FF#32
  | .tap _ => 0x0000001F#32
  | .completion .q0 => 0x000037FF#32
  | .completion .q1 => 0x01FFFFFF#32
  | .completion .q2 => 0x00FFFFFF#32
  | .completion .q3 => 0x9F3F1FFF#32
  | .failCount => 0x0000003F#32
  | .failOverflow => 0x0000FFFF#32
  | .recordIndex => 0x000000FF#32
  | .viewState => 0x00000003#32
  | .failLimit => 0x0000FFFF#32
  | .failRecord 0 => 0x00007F1F#32
  | .failRecord 1 => 0x0001FFFF#32
  | .failRecord 3 => 0x00FFFFFF#32
  | .failRecord 4 => 0x0000FFFF#32
  | .sweepEntry _ => 0x000001FF#32
  | .sweepStatus => 0xFF1F1F07#32
  | .flags => 0x0000003F#32
  | .enables => 0x0000003F#32
  | .badAccess => 0x000000FF#32
  | _ => 0xFFFFFFFF#32

theorem and_not_allOnes (x : Word) : x &&& ~~~ 0xFFFFFFFF#32 = 0#32 := by
  rw [show ~~~ 0xFFFFFFFF#32 = (0#32 : Word) from rfl, BitVec.and_zero]

theorem zero_and_not (m : Word) : (0 : Word) &&& ~~~ m = 0#32 := BitVec.zero_and

theorem runWord_bits (s : State) : runWord s &&& ~~~ 0x00FF71F7#32 = 0#32 :=
  or_and_not (or_and_not (or_and_not (or_and_not (or_and_not (field_and_not _ (by decide) (by decide))
    (field_and_not _ (by decide) (by decide))) (field_and_not _ (by decide) (by decide)))
    (field_and_not _ (by decide) (by decide))) (field_and_not _ (by decide) (by decide)))
    (field_and_not _ (by decide) (by decide))

theorem queueWord_bits (s : State) : queueWord s &&& ~~~ 0x00FFFF3F#32 = 0#32 :=
  or_and_not (or_and_not (field_and_not _ (by decide) (by decide)) (field_and_not _ (by decide) (by decide)))
    (field_and_not _ (by decide) (by decide))

theorem countsWord_bits (s : State) : countsWord s &&& ~~~ 0x7DF1FF1F#32 = 0#32 :=
  or_and_not (or_and_not (or_and_not (or_and_not (field_and_not _ (by decide) (by decide))
    (field_and_not _ (by decide) (by decide))) (field_and_not _ (by decide) (by decide)))
    (field_and_not _ (by decide) (by decide))) (field_and_not _ (by decide) (by decide))

theorem eventsWord_bits (s : State) : eventsWord s &&& ~~~ 0xFFFFFF0F#32 = 0#32 :=
  or_and_not (or_and_not (or_and_not (field_and_not _ (by decide) (by decide))
    (field_and_not _ (by decide) (by decide))) (field_and_not _ (by decide) (by decide)))
    (field_and_not _ (by decide) (by decide))

theorem rankWord_bits (s : State) : rankWord s &&& ~~~ 0x00000303#32 = 0#32 :=
  or_and_not (or_and_not (or_and_not (field_and_not _ (by decide) (by decide))
    (field_and_not _ (by decide) (by decide))) (field_and_not _ (by decide) (by decide)))
    (field_and_not _ (by decide) (by decide))

theorem refreshWord_bits (s : State) : refreshWord s &&& ~~~ 0x0000F7F7#32 = 0#32 :=
  or_and_not (or_and_not (or_and_not (or_and_not (or_and_not (field_and_not _ (by decide) (by decide))
    (field_and_not _ (by decide) (by decide))) (field_and_not _ (by decide) (by decide)))
    (field_and_not _ (by decide) (by decide))) (field_and_not _ (by decide) (by decide)))
    (field_and_not _ (by decide) (by decide))

theorem sweepStatusWord_bits (s : State) : sweepStatusWord s &&& ~~~ 0xFF1F1F07#32 = 0#32 := by
  unfold sweepStatusWord
  split
  · exact or_and_not (or_and_not (or_and_not (or_and_not (field_and_not _ (by decide) (by decide))
      (field_and_not _ (by decide) (by decide))) (field_and_not _ (by decide) (by decide)))
      (field_and_not _ (by decide) (by decide))) (field_and_not _ (by decide) (by decide))
  · exact zero_and_not _

theorem geometryWord_bits (g : Geometry) : geometryWord g &&& ~~~ 0x00FF1F03#32 = 0#32 :=
  or_and_not (or_and_not (field_and_not _ (by decide) (by decide)) (field_and_not _ (by decide) (by decide)))
    (field_and_not _ (by decide) (by decide))

theorem detailWord_bits (d : KindDetail) : detailWord d &&& ~~~ 0x9F3F1FFF#32 = 0#32 := by
  cases d with
  | none => exact zero_and_not _
  | marker code => exact field_and_not _ (by decide) (by decide)
  | sweep r =>
    exact or_and_not (or_and_not (or_and_not (or_and_not (field_and_not _ (by decide) (by decide))
      (field_and_not _ (by decide) (by decide))) (field_and_not _ (by decide) (by decide)))
      (field_and_not _ (by decide) (by decide))) (field_and_not _ (by decide) (by decide))

theorem completionWord_bits (c : CompletionRecord) (k : Quad) :
    completionWord c k &&& ~~~ definedBits (.completion k) = 0#32 := by
  cases k with
  | q0 =>
    exact or_and_not (or_and_not (field_and_not _ (by decide) (by decide))
      (field_and_not _ (by decide) (by decide))) (field_and_not _ (by decide) (by decide))
  | q1 => exact field_and_not _ (by decide) (by decide)
  | q2 => exact or_and_not (field_and_not _ (by decide) (by decide)) (field_and_not _ (by decide) (by decide))
  | q3 => exact detailWord_bits c.detail

theorem failWord_bits (r : FailRecord) (i : Fin 5) :
    failWord r i &&& ~~~ definedBits (.failRecord i) = 0#32 := by
  match i with
  | 0 =>
    exact or_and_not (or_and_not (or_and_not (field_and_not _ (by decide) (by decide))
      (field_and_not _ (by decide) (by decide))) (field_and_not _ (by decide) (by decide)))
      (field_and_not _ (by decide) (by decide))
  | 1 => exact field_and_not _ (by decide) (by decide)
  | 2 => exact and_not_allOnes _
  | 3 =>
    exact or_and_not (or_and_not (field_and_not _ (by decide) (by decide))
      (field_and_not _ (by decide) (by decide))) (field_and_not _ (by decide) (by decide))
  | 4 => exact field_and_not _ (by decide) (by decide)

/-- What a port shows, or 0 with nothing to show. -/
theorem getD_and_not {α : Type} {x : Option α} {f : α → Word} {m : Word}
    (h : ∀ y, f y &&& ~~~ m = 0#32) : (x.map f).getD 0 &&& ~~~ m = 0#32 := by
  cases x with
  | none => exact zero_and_not m
  | some y => exact h y

/-- Bits that no field defines read 0. -/
theorem readWord_bits (s : State) (w : WindowWord) : readWord s w &&& ~~~ definedBits w = 0#32 := by
  cases w with
  | family =>
    change Config.identification &&& ~~~ 0x0000FFFF#32 = 0#32
    decide
  | revision =>
    change Config.revision &&& ~~~ 0x000000FF#32 = 0#32
    decide
  | command =>
    exact or_and_not (field_and_not _ (by decide) (by decide)) (field_and_not _ (by decide) (by decide))
  | result =>
    exact or_and_not (field_and_not _ (by decide) (by decide)) (field_and_not _ (by decide) (by decide))
  | statusRun => exact runWord_bits s
  | statusQueue => exact queueWord_bits s
  | statusCounts => exact countsWord_bits s
  | statusEvents => exact eventsWord_bits s
  | statusAborts => exact setWidth_and_not _ (by decide)
  | rankStates => exact rankWord_bits s
  | timing p => exact setWidth_and_not (m := 0x0000FFFF#32) _ (by decide)
  | geometry => exact geometryWord_bits _
  | refreshStatus => exact refreshWord_bits s
  | refreshMissed => exact setWidth_and_not _ (by decide)
  | haltOnMiss => exact field_and_not _ (by decide) (by decide)
  | slot i => exact setWidth_and_not (m := 0x000000FF#32) _ (by decide)
  | tap k => exact setWidth_and_not (m := 0x0000001F#32) _ (by decide)
  | completion k => exact getD_and_not fun c => completionWord_bits c k
  | failCount => exact field_and_not _ (by decide) (by decide)
  | failOverflow => exact setWidth_and_not _ (by decide)
  | recordIndex => exact setWidth_and_not _ (by decide)
  | viewState => exact field_and_not _ (by decide) (by decide)
  | failLimit => exact setWidth_and_not _ (by decide)
  | failRecord i => exact getD_and_not fun r => failWord_bits r i
  | sweepEntry v =>
    exact or_and_not (m := 0x000001FF#32) (field_and_not _ (by decide) (by decide))
      (field_and_not _ (by decide) (by decide))
  | sweepStatus => exact sweepStatusWord_bits s
  | flags => exact setWidth_and_not _ (by decide)
  | enables => exact setWidth_and_not _ (by decide)
  | badAccess => exact setWidth_and_not _ (by decide)
  | staging i => exact and_not_allOnes _
  | bankStates k => exact and_not_allOnes _
  | statistic i => exact and_not_allOnes _
  | ignoreMask => exact and_not_allOnes _

/-! ## What the remaining words hold (R185, R186) -/

theorem ResultCode.code_lt (c : ResultCode) : c.code < 256 := by cases c <;> decide

theorem commandWord_fields (h : HostPort) :
    (commandWord h).extractLsb' 0 4 = h.commandCode ∧ (commandWord h).extractLsb' 8 2 = h.commandMask := by
  simp [commandWord, BitVec.extractLsb'_or, extract_field, extract_other_field]

theorem resultWord_fields (h : HostPort) :
    ((resultWord h).extractLsb' 0 8).toNat = h.resultCode.code ∧
      (resultWord h).extractLsb' 8 8 = h.resultDetail := by
  simp [resultWord, BitVec.extractLsb'_or, extract_field, extract_other_field, Nat.mod_eq_of_lt,
    h.resultCode.code_lt]

theorem geometryWord_fields (g : Geometry) :
    (geometryWord g).extractLsb' 0 2 = g.ranksPresent ∧ (geometryWord g).extractLsb' 8 5 = g.rowsCode ∧
      (geometryWord g).extractLsb' 16 8 = g.burstsPerRow := by
  simp [geometryWord, BitVec.extractLsb'_or, extract_field, extract_other_field]

theorem sweepEntryWord_fields (e : SweepEntry) :
    (sweepEntryWord e).extractLsb' 0 8 = e.count ∧ (sweepEntryWord e).getLsbD 8 = e.tested := by
  simp [sweepEntryWord, BitVec.extractLsb'_or, extract_field, extract_other_flagField, getLsbD_flagField,
    getLsbD_other_field, -BitVec.getLsbD_eq_getElem]

/-- Settles O39: the access answered by its word's row, and each status word by its fields. -/
theorem otherAccessesByAttribute : Obligations.OtherAccessesByAttribute := by
  refine ⟨⟨rfl, rfl, rfl, rfl, rfl, rfl, rfl, rfl, rfl, rfl, rfl⟩, fun s a hbe => ?_, fun s => ?_⟩
  · intro bad
    have hbad {t : State} (h : t = countBadAccess s) :
        (Host.Outcome.next t : Host.Outcome State Fault Refusal) = .next bad :=
      congrArg _ (h.trans (countBadAccess_eq s))
    refine ⟨fun w hdir hw hport hrecord => ?_, fun hdir hw => ?_, fun hdir hw => hbad ?_,
      fun hdir hw => hbad ?_, fun hdir hw hcode => hbad ?_⟩
    · have hcontent : hasContent s w = true := by
        cases w with
        | completion k => exact absurd rfl (hport k)
        | failRecord i => exact absurd rfl (hrecord i)
        | _ => rfl
      have hread := readDefined_of_content hcontent
      rw [← hbe] at hread
      exact congrArg _ ((busAccess_read hw hdir s).trans hread)
    · refine congrArg _ ((busAccess_undefined hw s).trans ?_)
      rw [if_neg (Bool.eq_false_iff.mp hdir), badRead_eq]
    · exact (busAccess_undefined hw s).trans (if_pos hdir)
    · obtain ⟨w, hw, hreadOnly⟩ := readOnly_of_mem hw
      exact (busAccess_write hw hdir s).trans (writeDefined_readOnly hreadOnly _ _ s)
    · rw [busAccess_write hw hdir, writeDefined, hbe]
      exact engineWrite_unnamed hcode s
  · obtain ⟨hcode, hmask⟩ := commandWord_fields s.host
    obtain ⟨hresult, hdetail⟩ := resultWord_fields s.host
    obtain ⟨hpresent, hrows, hbursts⟩ := geometryWord_fields s.timing.geometry
    refine ⟨⟨rfl, rfl, hcode, hmask, hresult, hdetail, fun i => rfl⟩, ⟨rfl, rfl, rfl, rfl, rfl, rfl, rfl, rfl⟩,
      ⟨fun p => rfl, hpresent, hrows, hbursts⟩,
      ⟨getLsbD_flagField 0 _ (by decide), fun i => rfl, rfl, fun k => rfl⟩,
      ⟨rfl, ?_, rfl, fun v => sweepEntryWord_fields _⟩, ⟨rfl, rfl⟩, ?_⟩
    · change field 0 2 s.failLog.view.code = _
      cases s.failLog.view <;> rfl
    · intro defined w
      exact readWord_bits s w

end Sys2Proof.Machine
end

/-!
The choice of the arbiter: the first command of the ladder that may issue, and what each rung offers (R84–R95).
-/
section

namespace Sys2Proof.Machine

/-! ## The first of the ladder (R86, R95) -/

theorem mem_rungsFor (n : Nat) (st : RunState) :
    n ∈ rungsFor st ↔
      n ∈ [1, 2, 8] ∨ (n ∈ [3, 4, 5, 6, 7, 9] ∧ (st = .running ∨ st = .draining)) := by
  rw [← works_iff]
  cases h : st.works
  · simp [rungsFor, h]
  · simp only [rungsFor, h, if_true, List.mem_cons, List.not_mem_nil, or_false, and_true]
    omega

theorem rungsFor_sorted (st : RunState) : (rungsFor st).Pairwise (· < ·) := by
  cases st <;> decide

/-- The first entry of numbered lists that a test holds of: no entry ahead of it in its list, and none of a
list of a lower number. -/
theorem find?_numbered {β : Type} (f : Nat → List β) (p : β → Bool) {l : List Nat}
    (hl : l.Pairwise (· < ·)) {n : Nat} {c : β}
    (h : (l.flatMap fun m => (f m).map fun x => (m, x)).find? (fun y => p y.2) = some (n, c)) :
    n ∈ l ∧ (∃ ahead behind, f n = ahead ++ c :: behind ∧ ∀ x ∈ ahead, ¬ p x = true) ∧ p c = true ∧
      ∀ m ∈ l, m < n → ∀ x ∈ f m, ¬ p x = true := by
  induction l with
  | nil => cases h
  | cons m l ih =>
    obtain ⟨hm, hl⟩ := List.pairwise_cons.mp hl
    have hcomp : (fun y : Nat × β => p y.2) ∘ (fun x => (m, x)) = p := rfl
    rw [List.flatMap_cons, List.find?_append, List.find?_map, hcomp] at h
    cases hfind : (f m).find? p with
    | some x =>
      rw [hfind] at h
      simp only [Option.map_some, Option.some_or, Option.some.injEq, Prod.mk.injEq] at h
      obtain ⟨rfl, rfl⟩ := h
      obtain ⟨hx, ahead, behind, hf, hahead⟩ := List.find?_eq_some_iff_append.mp hfind
      refine ⟨List.mem_cons_self, ⟨ahead, behind, hf, fun y hy => by simpa using hahead y hy⟩, hx,
        fun k hk hlt => ?_⟩
      rcases List.mem_cons.mp hk with rfl | hk
      · exact absurd hlt (lt_irrefl _)
      · exact absurd hlt (Nat.lt_asymm (hm k hk))
    | none =>
      rw [hfind] at h
      obtain ⟨hn, hahead, hc, hlower⟩ := ih hl h
      refine ⟨List.mem_cons_of_mem m hn, hahead, hc, fun k hk hlt => ?_⟩
      rcases List.mem_cons.mp hk with rfl | hk
      · exact List.find?_eq_none.mp hfind
      · exact hlower k hk hlt

theorem choose_of_not_settling {s : State} (h : s.run.settle = none) :
    choose s = (ladder s).find? fun p => issuable s p.2 := by
  have h : ¬ settling s = true := by rw [settling, h]; exact Bool.false_ne_true
  rw [choose, if_neg h]

theorem issuable_iff (s : State) (c : ArrayCommand) :
    issuable s c = true ↔ eligible s c = true ∧ withheld s c = false := by
  rw [issuable, Bool.and_eq_true, Bool.not_eq_true']

theorem choose_eq_none_iff {s : State} (h : s.run.settle = none) :
    choose s = none ↔ ∀ n ∈ rungsFor s.run.state, ∀ x ∈ rung s n, ¬ issuable s x = true := by
  rw [choose_of_not_settling h, List.find?_eq_none, ladder]
  constructor
  · intro hall n hn x hx
    exact hall (n, x) (List.mem_flatMap.mpr ⟨n, hn, List.mem_map.mpr ⟨x, hx, rfl⟩⟩)
  · intro hall y hy
    obtain ⟨n, hn, hy⟩ := List.mem_flatMap.mp hy
    obtain ⟨x, hx, rfl⟩ := List.mem_map.mp hy
    exact hall n hn x hx

/-! ## Rungs by rank (R87, R88, R90) -/

/-- A rung that offers at most one command for each present rank, in rank order. -/
theorem offers_byRank {s : State} {l : List ArrayCommand} (g : Rank → Option ArrayCommand)
    {offers : Rank → ArrayCommand → Prop} (hl : l = (presentRanks s).filterMap g)
    (hg : ∀ r c, g r = some c ↔ offers r c) :
    ∃ ranks : List Rank, ranks.Sublist [.r0, .r1] ∧
      (∀ r, r ∈ ranks ↔ isPresent s r = true ∧ ∃ c, offers r c) ∧ List.Forall₂ offers ranks l := by
  have hall (ranks : List Rank) :
      List.Forall₂ offers (ranks.filter fun r => (g r).isSome) (ranks.filterMap g) := by
    induction ranks with
    | nil => exact .nil
    | cons r ranks ih =>
      cases h : g r with
      | none =>
        rw [List.filterMap_cons_none h, List.filter_cons_of_neg (by simp [h])]
        exact ih
      | some c =>
        rw [List.filterMap_cons_some h, List.filter_cons_of_pos (by simp [h])]
        exact .cons ((hg r c).mp h) ih
  refine ⟨(presentRanks s).filter fun r => (g r).isSome, ?_, fun r => ?_, hl ▸ hall _⟩
  · exact List.filter_sublist.trans List.filter_sublist
  · simp only [List.mem_filter, mem_presentRanks, Option.isSome_iff_exists, hg]

theorem refreshWork_iff (s : State) (r : Rank) (c : ArrayCommand) :
    refreshWork s r = some c ↔
      (¬ ∃ b : BankAddr, b.rank = r ∧ (bankAt s b).state = .unknown) ∧
        (((∃ b : BankAddr, b.rank = r ∧ ((∃ row, (bankAt s b).state = .opened row) ∨
            ∃ row, (bankAt s b).state = .opening row)) ∧ c = .closeRank r) ∨
          ((∀ b : BankAddr, b.rank = r → (bankAt s b).state = .closed) ∧ c = .refresh r)) := by
  have hall (P : BankState → Prop) : (∀ k ∈ rankBankRecords s r, P k.state) ↔
      ∀ b : BankAddr, b.rank = r → P (bankAt s b).state := by
    simp only [mem_rankBankRecords]
    exact ⟨fun h b hb => h _ ⟨b, hb, rfl⟩, fun h k ⟨b, hb, hk⟩ => hk ▸ h b hb⟩
  have hany (P : BankState → Prop) : (∃ k ∈ rankBankRecords s r, P k.state) ↔
      ∃ b : BankAddr, b.rank = r ∧ P (bankAt s b).state := by
    simp only [mem_rankBankRecords]
    exact ⟨fun ⟨k, ⟨b, hb, hk⟩, h⟩ => ⟨b, hb, hk ▸ h⟩, fun ⟨b, hb, h⟩ => ⟨_, ⟨b, hb, rfl⟩, h⟩⟩
  simp only [refreshWork_eq_some, BankState.isOpenOrOpening_iff]
  rw [hall (· ≠ .unknown), hall (· = .closed),
    hany fun k => (∃ row, k = .opened row) ∨ ∃ row, k = .opening row]
  simp only [not_exists, not_and, ne_eq]

theorem needsClosing_iff (s : State) (r : Rank) :
    needsClosing s r = true ↔ ∃ b : BankAddr, b.rank = r ∧
      ((∃ row, (bankAt s b).state = .opened row) ∨ (∃ row, (bankAt s b).state = .opening row) ∨
        (bankAt s b).state = .unknown) := by
  simp only [needsClosing, List.any_eq_true, Bool.or_eq_true, BankState.isOpenOrOpening_iff, beq_iff_eq,
    mem_rankBankRecords, or_assoc]
  exact ⟨fun ⟨k, ⟨b, hb, hk⟩, h⟩ => ⟨b, hb, hk ▸ h⟩, fun ⟨b, hb, h⟩ => ⟨_, ⟨b, hb, rfl⟩, h⟩⟩

/-- The rungs of ranks that pass a test, as one filterMap. -/
theorem ite_some_iff {α : Type} (p : Bool) (x : Option α) (y : α) :
    (if p = true then x else none) = some y ↔ p = true ∧ x = some y := by
  cases p <;> simp

theorem rung1_eq (s : State) :
    rung s 1 =
      (presentRanks s).filterMap fun r => if offeredForClosing s r then some (.closeRank r) else none := by
  change ((presentRanks s).filter (offeredForClosing s)).map ArrayCommand.closeRank = _
  rw [← List.filterMap_eq_map, filterMap_filter_left]
  rfl

theorem rung2_eq (s : State) :
    rung s 2 = (presentRanks s).filterMap fun r => if urgent s r then refreshWork s r else none :=
  filterMap_filter_left _ _ _

theorem rung8_eq (s : State) :
    rung s 8 = (presentRanks s).filterMap fun r =>
      if decide (1 ≤ (rankAt s r).debt) && !urgent s r && !rankHasWork s r then refreshWork s r
      else none :=
  filterMap_filter_left _ _ _

/-! ## Rungs by the window (R92, R94) -/

/-- A rung that offers at most one command for each head access, in window order. -/
theorem offers_byWindow {s : State} {l : List ArrayCommand} (g : Access → Option ArrayCommand)
    {offers : Access → ArrayCommand → Prop} (hl : l = (headAccesses s).filterMap g)
    (hg : ∀ a c, g a = some c ↔ offers a c) :
    ∃ places : List Nat, places.Pairwise (· < ·) ∧
      (∀ i, i ∈ places ↔ ∃ a c, HeadAt s.window i a ∧ offers a c) ∧
      List.Forall₂ (fun i c => ∃ a, HeadAt s.window i a ∧ offers a c) places l := by
  obtain ⟨places, hlt, hmem, hall⟩ := headsFrom_filterMap g s.window []
  simp only [List.not_mem_nil, not_false_eq_true, true_and, hg] at hmem hall
  exact ⟨places, hlt, hmem, hl ▸ hall⟩

theorem rung3_eq (s : State) :
    rung s 3 = (headAccesses s).filterMap fun a => if starved s a then nextCommand s a else none :=
  filterMap_filter_left _ _ _

/-- The rungs of the head accesses that are not starved, with a test of the command. -/
theorem headCommands_filter (s : State) (p : ArrayCommand → Bool) :
    (headCommands s).filter p = (headAccesses s).filterMap fun a =>
      (if !starved s a then nextCommand s a else none).filter p := by
  rw [headCommands, filterMap_filter_left, filter_filterMap_right]

theorem headCommand_iff (s : State) (p : ArrayCommand → Bool) (a : Access) (c : ArrayCommand) :
    (if (!starved s a) = true then nextCommand s a else none).filter p = some c ↔
      ¬ tclk s .starveLimit ≤ a.bypass ∧ nextCommand s a = some c ∧ p c = true := by
  rw [Option.filter_eq_some_iff, ite_some_iff, Bool.not_eq_true', ← starved_iff, Bool.not_eq_true, and_assoc]

/-- Which of the rungs 5, 6 and 7 a next command stands on: the access, the OPEN of its row, or a CLOSE of
a bank whose close pending is no. -/
theorem rungs_of_next {s : State} {a : Access} {c : ArrayCommand} (h : nextCommand s a = some c) :
    (c.isAccess = true ↔ c = .read a ∨ c = .write a) ∧
      (c.isOpen = true ↔ c = .openRow a.addr.bank a.addr.row) ∧
      (isConflictClose s c = true ↔
        c = .close a.addr.bank ∧ (bankAt s a.addr.bank).closePending = false) := by
  rcases (nextCommand_eq_some s a c).mp h with
    ⟨-, rfl⟩ | ⟨-, -, rfl⟩ | ⟨-, row, -, ⟨-, rfl⟩ | ⟨-, rfl⟩⟩
  · simp [ArrayCommand.isAccess, ArrayCommand.isOpen, isConflictClose]
  · simp [ArrayCommand.isAccess, ArrayCommand.isOpen, isConflictClose]
  · cases a.op <;> simp [ArrayCommand.isAccess, ArrayCommand.isOpen, isConflictClose]
  · simp [ArrayCommand.isAccess, ArrayCommand.isOpen, isConflictClose]

/-! ## Idle closes (R93) -/

theorem offeredIdleClose_iff (s : State) (b : BankAddr) :
    offeredIdleClose s b = true ↔
      isPresent s b.rank = true ∧ (∃ row, (bankAt s b).state = .opened row) ∧
        (bankAt s b).closePending = false ∧ tclk s .pageHold ≠ 0 ∧
        tclk s .pageHold ≤ (bankAt s b).idle ∧ ∀ a ∈ s.window, a.addr.bank ≠ b := by
  have hwork : bankHasWork s b = false ↔ ∀ a ∈ s.window, a.addr.bank ≠ b := by
    rw [← Bool.not_eq_true, bankHasWork_iff]
    simp only [not_exists, not_and, ne_eq]
  simp only [offeredIdleClose, Bool.and_eq_true, BankState.isOpened_iff, Bool.not_eq_true',
    decide_eq_true_eq, hwork, and_assoc]

theorem allBanks_sorted : allBanks.Pairwise fun b c => bankNumber b < bankNumber c := by
  rw [← List.pairwise_map (f := bankNumber) (R := (· < ·)), allBanks_map_bankNumber]
  exact List.pairwise_lt_range

/-- Settles O42: the choice is a search through numbered lists, and each rung a filterMap of ranks, head accesses
or banks in its order. -/
theorem choiceIsFirstOnLadder : Obligations.ChoiceIsFirstOnLadder := by
  refine ⟨fun s hsettle => ?_, fun s => ?_⟩
  · intro applies ready
    have happlies (n : Nat) : n ∈ rungsFor s.run.state ↔ applies n := mem_rungsFor n _
    have hready (c : ArrayCommand) : issuable s c = true ↔ ready c := issuable_iff s c
    refine ⟨fun n c h => ?_, ?_⟩
    · rw [choose_of_not_settling hsettle] at h
      obtain ⟨hn, ⟨ahead, behind, hrung, hahead⟩, hc, hlower⟩ :=
        find?_numbered (rung s) (issuable s) (rungsFor_sorted _) h
      exact ⟨(happlies n).mp hn, ⟨ahead, behind, hrung, fun x hx => mt (hready x).mpr (hahead x hx)⟩,
        (hready c).mp hc, fun m hm ha x hx => mt (hready x).mpr (hlower m ((happlies m).mpr ha) hm x hx)⟩
    · simp only [choose_eq_none_iff hsettle, happlies, hready]
  · intro isOpen isOpening hasWork owes someBank closing refreshing byRank head next starves byWindow
    have hnext (a : Access) (c : ArrayCommand) : nextCommand s a = some c ↔ next a c :=
      nextCommand_eq_some s a c
    have hurgent (r : Rank) : urgent s r = true ↔ (rankAt s r).debt ≥ 8 := decide_eq_true_iff
    have hrefresh (r : Rank) (c : ArrayCommand) : refreshWork s r = some c ↔ refreshing r c :=
      refreshWork_iff s r c
    have hclosing (r : Rank) : offeredForClosing s r = true ↔ closing r := by
      simp only [offeredForClosing, closing]
      cases s.run.state with
      | aborting => exact (needsClosing_iff s r).trans (by simp only [someBank, isOpen, isOpening])
      | _ => simp only [Bool.and_eq_true, Bool.or_eq_true, rankHasWork_iff, decide_eq_true_eq, hasWork, owes]
    have byWindow_of {n : Nat} {p : ArrayCommand → Bool} {offers : Access → ArrayCommand → Prop}
        (hrung : rung s n = (headCommands s).filter p)
        (hp : ∀ a c, nextCommand s a = some c → (p c = true ↔ offers a c)) :
        byWindow n fun a c => ¬ starves a ∧ next a c ∧ offers a c := by
      refine offers_byWindow _ (hrung.trans (headCommands_filter s p)) fun a c => ?_
      rw [headCommand_iff, ← hnext]
      exact and_congr_right fun _ => and_congr_right (hp a c)
    refine ⟨hnext, offers_byRank _ (rung1_eq s) fun r c => ?_, offers_byRank _ (rung2_eq s) fun r c => ?_,
      offers_byWindow _ (rung3_eq s) fun a c => ?_, rfl, byWindow_of rfl fun _ _ h => (rungs_of_next h).1,
      byWindow_of rfl fun _ _ h => (rungs_of_next h).2.1, byWindow_of rfl fun _ _ h => (rungs_of_next h).2.2,
      offers_byRank _ (rung8_eq s) fun r c => ?_, (allBanks.filter (offeredIdleClose s)).foldr (insertByIdle s) [],
      rfl, fun b => ?_, pairwise_foldr_insertByIdle s _ (allBanks_sorted.filter _)⟩
    · rw [ite_some_iff, hclosing, Option.some.injEq, eq_comm (a := c)]
    · rw [ite_some_iff, hurgent, hrefresh]
    · rw [ite_some_iff, starved_iff, hnext]
    · rw [ite_some_iff, Bool.and_eq_true, Bool.and_eq_true, Bool.not_eq_true', Bool.not_eq_true',
        decide_eq_true_eq, ← Bool.not_eq_true, ← Bool.not_eq_true, hurgent, rankHasWork_iff, hrefresh,
        and_assoc, and_assoc, not_le]
    · rw [mem_foldr_insertByIdle, List.mem_filter, offeredIdleClose_iff]
      exact and_iff_right (mem_allBanks b)

end Sys2Proof.Machine
end

/-!
What a command asks of the bank table and the spacing monitor, and the window after an access has issued
(R46, R56, R72–R79, R88–R90, R96).
-/
section

namespace Sys2Proof.Machine

/-! ## The row of the table for each command (section 4.7) -/

section Eligible

variable (s : State)

theorem tableAllowsOpen_iff (b : BankAddr) :
    tableAllowsOpen s b = true ↔ (bankAt s b).state = .closed ∧ (rankAt s b.rank).state = .ready ∧
      (rankAt s b.rank).recoveryNeeded = false := by
  simp only [tableAllowsOpen, Bool.and_eq_true, beq_iff_eq, Bool.not_eq_true', and_assoc]

theorem spacingAllowsOpen_iff (b : BankAddr) :
    spacingAllowsOpen s b = true ↔ (s.holds.get (.setOpen b.rank b.bankSet)).remaining = 0 ∧
      openGapKept s b.rank = true ∧ openWindowKept s b.rank = true := by
  simp only [spacingAllowsOpen, Bool.and_eq_true, holdExpired_iff, and_assoc]

theorem spacingAllowsRead_iff (b : BankAddr) :
    spacingAllowsRead s b = true ↔ accessGapsKept s b = true ∧
      (s.holds.get (.setWriteToRead b.rank b.bankSet)).remaining = 0 ∧
      (s.holds.get (.rankWriteToRead b.rank)).remaining = 0 ∧
      (s.holds.get .dataLane).remaining ≤ tclk s .readLatency ∧ s.reads.inFlight.length < 8 := by
  simp only [spacingAllowsRead, Bool.and_eq_true, holdExpired_iff, lanesFree_iff, decide_eq_true_eq, and_assoc]
  rfl

theorem spacingAllowsWrite_iff (b : BankAddr) :
    spacingAllowsWrite s b = true ↔ accessGapsKept s b = true ∧
      (s.holds.get (.readToWrite b.rank)).remaining = 0 ∧
      (s.holds.get .dataLane).remaining ≤ tclk s .writeLatency := by
  simp only [spacingAllowsWrite, Bool.and_eq_true, holdExpired_iff, lanesFree_iff, and_assoc]

/-- Only an OPEN is ever withheld. -/
theorem withheld_of_not_isOpen {c : ArrayCommand} (h : c.isOpen = false) : withheld s c = false := by
  cases c
  case openRow => cases h
  all_goals rfl

end Eligible

/-! ## The debt a REFRESH pays -/

/-- The next command of an access is never a REFRESH. -/
theorem nextCommand_ne_refresh (s : State) (a : Access) (r : Rank) : nextCommand s a ≠ some (.refresh r) := by
  intro h
  rcases (nextCommand_eq_some s a _).mp h with ⟨-, hc⟩ | ⟨-, -, hc⟩ | ⟨-, row, -, ⟨-, hc⟩ | ⟨-, hc⟩⟩
  · cases hc
  · cases hc
  · cases hop : a.op <;> rw [hop] at hc <;> cases hc
  · cases hc

theorem rank_of_refreshWork {s : State} {q r : Rank} (h : refreshWork s q = some (.refresh r)) : q = r := by
  rcases ((refreshWork_eq_some s q _).mp h).2 with ⟨-, hc⟩ | ⟨-, hc⟩
  · cases hc
  · exact (ArrayCommand.refresh.inj hc).symm

/-- Only the rungs of refresh offer a REFRESH, and only to a rank with a debt (R88, R90). -/
theorem debt_of_refresh_mem_rung {s : State} {n : Nat} {r : Rank} (h : .refresh r ∈ rung s n) :
    1 ≤ (rankAt s r).debt := by
  have hheads : .refresh r ∉ headCommands s := fun hm => by
    obtain ⟨a, -, ha⟩ := mem_headCommands hm
    exact nextCommand_ne_refresh s a r ha
  unfold rung at h
  split at h
  · obtain ⟨_, -, hc⟩ := List.mem_map.mp h
    cases hc
  · obtain ⟨q, hq, hc⟩ := List.mem_filterMap.mp h
    have hurgent : Config.urgentDebt ≤ (rankAt s q).debt := of_decide_eq_true (List.mem_filter.mp hq).2
    rw [rank_of_refreshWork hc] at hurgent
    exact le_trans (by decide) hurgent
  · obtain ⟨a, -, ha⟩ := List.mem_filterMap.mp h
    exact absurd ha (nextCommand_ne_refresh s a r)
  · obtain ⟨_, -, hc⟩ := List.mem_map.mp h
    cases hc
  · exact absurd (List.mem_filter.mp h).1 hheads
  · exact absurd (List.mem_filter.mp h).1 hheads
  · exact absurd (List.mem_filter.mp h).1 hheads
  · obtain ⟨q, hq, hc⟩ := List.mem_filterMap.mp h
    have htest := (List.mem_filter.mp hq).2
    rw [rank_of_refreshWork hc, Bool.and_eq_true, Bool.and_eq_true, decide_eq_true_eq] at htest
    exact htest.1.1
  · obtain ⟨_, -, hc⟩ := List.mem_map.mp h
    cases hc
  · cases h

/-- Settles O43: row by row of the table, and a REFRESH stands only on the rungs of a rank with a debt. -/
theorem issuedCommandsAreAllowed : Obligations.IssuedCommandsAreAllowed := by
  intro s c gaps allowed
  have hallowed : eligible s c = true ∧ withheld s c = false ↔ allowed := by
    simp only [allowed, gaps]
    cases c with
    | openRow b row =>
      simp only [eligible, Bool.and_eq_true, tableAllowsOpen_iff, spacingAllowsOpen_iff, withheld_openRow_iff,
        openGapKept_iff, openWindowKept_iff]
      tauto
    | read a =>
      simp only [eligible, Bool.and_eq_true, tableAllowsAccess_iff, spacingAllowsRead_iff, accessGapsKept_iff,
        withheld_of_not_isOpen s (c := .read a) rfl, and_true, and_assoc]
    | write a =>
      simp only [eligible, Bool.and_eq_true, tableAllowsAccess_iff, spacingAllowsWrite_iff, accessGapsKept_iff,
        withheld_of_not_isOpen s (c := .write a) rfl, and_true, and_assoc]
    | close b =>
      simp only [eligible, tableAllowsClose_iff, closeReady_iff,
        withheld_of_not_isOpen s (c := .close b) rfl, and_true]
    | closeRank r =>
      simp only [eligible, tableAllowsCloseRank_iff, closeReady_iff,
        withheld_of_not_isOpen s (c := .closeRank r) rfl, and_true]
    | refresh r =>
      simp only [eligible, tableAllowsRefresh_iff, withheld_of_not_isOpen s (c := .refresh r) rfl, and_true]
  refine ⟨hallowed, fun n hchoose => ?_⟩
  obtain ⟨-, -, hrung, hready⟩ := choose_some hchoose
  refine ⟨hallowed.mp hready, ?_⟩
  rintro r rfl
  exact debt_of_refresh_mem_rung hrung

/-! ## The window after the issue of an access (R40, R96) -/

theorem passedOver_iff (s : State) (a x : Access) :
    passedOver s a x = true ↔ x.addr.bank.rank = a.addr.bank.rank ∧
      ∃ c, nextCommand s x = some c ∧ eligible s c = true := by
  unfold passedOver
  cases nextCommand s x <;> simp

/-- The window with its first access to a bank taken: those behind it as they were, those ahead of it
each counted when it is a head and the test holds. -/
theorem takeFromWindow_split (counts : Access → Bool) {a : Access} {ahead behind : List Access}
    (hne : ∀ x ∈ ahead, x.addr.bank ≠ a.addr.bank) (seen : List BankAddr) :
    ∃ front, takeFromWindow counts a seen (ahead ++ a :: behind) = front ++ behind ∧
      front.length = ahead.length ∧ ∀ earlier x later, ahead = earlier ++ x :: later →
        front[earlier.length]? = some (
          if x.addr.bank ∉ seen ∧ (∀ y ∈ earlier, y.addr.bank ≠ x.addr.bank) ∧ counts x = true
          then x.bypassed else x) := by
  induction ahead generalizing seen with
  | nil => exact ⟨[], by simp [takeFromWindow], rfl, by simp⟩
  | cons y ahead ih =>
    obtain ⟨hy, hne⟩ := List.forall_mem_cons.mp hne
    obtain ⟨front, htake, hlength, hfront⟩ := ih hne (y.addr.bank :: seen)
    refine ⟨(if y.addr.bank ∉ seen ∧ counts y = true then y.bypassed else y) :: front, ?_,
      congrArg Nat.succ hlength, fun earlier x later hsplit => ?_⟩
    · rw [List.cons_append, takeFromWindow, if_neg fun e => hy (congrArg (·.addr.bank) e), htake, List.cons_append]
    · cases earlier with
      | nil =>
        obtain ⟨rfl, -⟩ := List.cons.inj hsplit
        simp
      | cons z earlier =>
        obtain ⟨rfl, hrest⟩ := List.cons.inj hsplit
        rw [List.length_cons, List.getElem?_cons_succ, hfront earlier x later hrest]
        simp only [List.mem_cons, not_or, forall_eq_or_imp, ne_eq, eq_comm (a := x.addr.bank), and_left_comm,
          and_assoc]

/-- Settles O46: the window splits at the chosen access, the oldest to its bank. -/
theorem issuedAccessesLeaveTheWindow : Obligations.IssuedAccessesLeaveTheWindow := by
  intro s n a hchoose
  obtain ⟨ahead, behind, hwindow, hne⟩ := choose_access_head hchoose
  have htaken : (takeOpportunity s).window = takeFromWindow (passedOver s a) a [] s.window := by
    rcases hchoose with h | h
    · rw [takeOpportunity_some h, issueRead_window]
    · rw [takeOpportunity_some h, issueWrite_window]
  obtain ⟨front, htake, hlength, hfront⟩ := takeFromWindow_split (passedOver s a) (behind := behind) hne []
  rw [← hwindow, ← htaken] at htake
  refine ⟨ahead, behind, hwindow, hne, ?_, ?_, fun earlier x later hsplit => ?_⟩
  · rw [htaken]
    exact length_takeFromWindow _ a [] _ (mem_window_of_choose hchoose)
  · rw [htake, ← hlength, List.drop_left]
  · have hlt : earlier.length < front.length := by
      rw [hlength, hsplit, List.length_append, List.length_cons]
      omega
    rw [htake, List.getElem?_append_left hlt, hfront earlier x later hsplit]
    simp only [List.not_mem_nil, not_false_eq_true, true_and, passedOver_iff, and_left_comm]
    rfl

end Sys2Proof.Machine
end

/-!
What the issue of each command changes, and the passing of one tclk (R43, R44, R47–R61, R71, R82, R190).
-/
section

namespace Sys2Proof.Machine

/-! ## The issue of a command to a bank or a rank -/

/-- A statistic counts and stops at its largest value. -/
theorem satInc_word (x : Word) : satInc x = .ofNat 32 (min (x.toNat + 1) (2 ^ 32 - 1)) := satInc_eq x

theorem opened_of_few {k : RankRecord} (h : k.history.length < 4) :
    k.opened = { k with history := k.history ++ [0] } := by
  have hnone : k.history.length + 1 - Config.historyCapacity = 0 := Nat.sub_eq_zero_of_le h
  rw [RankRecord.opened, hnone, List.drop_zero]

theorem opened_of_full {k : RankRecord} {oldest : Nat} {later : List Nat} (h : k.history = oldest :: later)
    (hlater : later.length = 3) : k.opened = { k with history := later ++ [0] } := by
  have hone : k.history.length + 1 - Config.historyCapacity = 1 := by
    rw [h, List.length_cons, hlater]
    rfl
  rw [RankRecord.opened, hone, h]
  rfl

theorem closeWithRank_eq (k : BankRecord) (n : Nat) :
    k.closeWithRank n = if k.state = .closed then { k with closePending := false, idle := 0 } else k.close n := by
  unfold BankRecord.closeWithRank
  cases k.state <;> simp

theorem remaining_modify_extend (h : Holds) (i j : HoldId) (v : Nat) :
    ((h.modify i fun t => t.extend v).get j).remaining =
      if j = i then max (h.get j).remaining v else (h.get j).remaining := by
  rw [Holds.get_modify]
  split <;> rfl

/-- Settles O44: each issue by its effect on its bank, its rank and its hold. -/
theorem bankCommandsIssue : Obligations.BankCommandsIssue := by
  intro s n closes
  refine ⟨fun b row h => ⟨_, takeOpportunity_some h, ?_, fun c hc => ?_, fun hfew => ?_,
      fun oldest later hhistory hlater => ?_, fun r hr => ?_, ?_, fun i hi => ?_, ?_⟩,
    fun b h => ⟨_, takeOpportunity_some h, ?_, fun c hc => ?_, ?_⟩,
    fun r h => ⟨_, takeOpportunity_some h, fun b hb => ?_, fun b hb => ?_, ?_, fun q hq => ?_, ?_⟩,
    fun r h => ⟨_, takeOpportunity_some h, ?_, fun q hq => ?_, ?_⟩⟩
  · exact (bankAt_issue_openRow n s b row b).trans (if_pos rfl)
  · exact (bankAt_issue_openRow n s b row c).trans (if_neg hc)
  · rw [rankAt_issue_openRow, if_pos rfl, opened_of_few hfew]
  · rw [rankAt_issue_openRow, if_pos rfl, opened_of_full hhistory hlater]
  · exact (rankAt_issue_openRow n s b row r).trans (if_neg hr)
  · exact (remaining_modify_extend s.holds (.setOpen b.rank b.bankSet) _ (tclk s .openGapSameSet)).trans (if_pos rfl)
  · exact (Holds.get_modify s.holds (.setOpen b.rank b.bankSet) i _).trans (if_neg hi)
  · rw [← satInc_word]
    rfl
  · exact (bankAt_issue_close n s b b).trans (if_pos rfl)
  · exact (bankAt_issue_close n s b c).trans (if_neg hc)
  · simp only [closes, ← satInc_word, ← bne_iff_ne, Bool.decide_eq_true]
    rfl
  · rw [bankAt_issue_closeRank, if_pos hb, closeWithRank_eq]
    rfl
  · exact (bankAt_issue_closeRank n s r b).trans (if_neg hb)
  · exact (rankAt_issue_closeRank n s r r).trans (if_pos rfl)
  · exact (rankAt_issue_closeRank n s r q).trans (if_neg hq)
  · simp only [closes, ← satInc_word, ← bne_iff_ne, Bool.decide_eq_true]
    rfl
  · exact (rankAt_issue_refresh n s r r).trans (if_pos rfl)
  · exact (rankAt_issue_refresh n s r q).trans (if_neg hq)
  · rw [← satInc_word]
    rfl

/-! ## The issue of an access -/

theorem remaining_startReadHolds (b : BankAddr) (s : State) (h : HoldId) :
    ((startReadHolds b s).holds.get h).remaining =
      if h = .setAccess b.rank b.bankSet then max (s.holds.get h).remaining (tclk s .accessGapSameSet)
      else if h = .rankAccess b.rank then max (s.holds.get h).remaining (tclk s .accessGapOtherSet)
      else if h = .rankSwitch (otherRank b.rank) then max (s.holds.get h).remaining (tclk s .rankSwitchGap)
      else if h = .readToWrite b.rank then max (s.holds.get h).remaining (tclk s .readToWrite)
      else if h = .dataLane then max (s.holds.get h).remaining (tclk s .readLatency + 4)
      else (s.holds.get h).remaining := by
  simp only [startReadHolds_eq, Holds.startAccess, remaining_modify_extend]
  cases h <;> simp [Config.dataPhase]

theorem remaining_startWriteHolds (b : BankAddr) (s : State) (h : HoldId) :
    ((startWriteHolds b s).holds.get h).remaining =
      if h = .setAccess b.rank b.bankSet then max (s.holds.get h).remaining (tclk s .accessGapSameSet)
      else if h = .rankAccess b.rank then max (s.holds.get h).remaining (tclk s .accessGapOtherSet)
      else if h = .rankSwitch (otherRank b.rank) then max (s.holds.get h).remaining (tclk s .rankSwitchGap)
      else if h = .setWriteToRead b.rank b.bankSet then
        max (s.holds.get h).remaining (tclk s .writeLatency + 4 + tclk s .writeToReadSameSet)
      else if h = .rankWriteToRead b.rank then
        max (s.holds.get h).remaining (tclk s .writeLatency + 4 + tclk s .writeToReadOtherSet)
      else if h = .dataLane then max (s.holds.get h).remaining (tclk s .writeLatency + 4)
      else (s.holds.get h).remaining := by
  simp only [startWriteHolds_eq, Holds.startAccess, remaining_modify_extend]
  cases h <;> simp [Config.dataPhase]

theorem issue_read_eq (n : Nat) (a : Access) (s : State) :
    issue n (.read a) s =
      recordRung n (driveBus (busToBank 4 a.addr.bank a.addr.col) (issueRead a s)) := rfl

theorem issue_write_eq (n : Nat) (a : Access) (s : State) :
    issue n (.write a) s =
      recordRung n (driveBus (busToBank 5 a.addr.bank a.addr.col) (issueWrite a s)) := rfl

theorem holds_issue_read (n : Nat) (a : Access) (s : State) :
    (issue n (.read a) s).holds = (startReadHolds a.addr.bank s).holds := by
  rw [issue_read_eq, issueRead_eq, recordRung_holds, driveBus_holds]

theorem holds_issue_write (n : Nat) (a : Access) (s : State) :
    (issue n (.write a) s).holds = (startWriteHolds a.addr.bank s).holds := by
  rw [issue_write_eq, issueWrite_eq, recordRung_holds, driveBus_holds]

/-- Settles O45: each issue by the one equation of all it changes. -/
theorem accessesIssue : Obligations.AccessesIssue := by
  refine ⟨⟨rfl, rfl⟩, fun s n a h => ?_, fun s n a h => ?_⟩
  · intro b
    refine ⟨_, takeOpportunity_some h, ?_, fun c hc => ?_, fun i => ?_, ?_⟩
    · exact (bankAt_issue_read n s a b).trans (if_pos rfl)
    · exact (bankAt_issue_read n s a c).trans (if_neg hc)
    · rw [holds_issue_read]
      exact remaining_startReadHolds b s i
    · rw [← satInc_word, issue_read_eq, issueRead_eq]
      rfl
  · intro b
    refine ⟨_, takeOpportunity_some h, ?_, fun c hc => ?_, fun i => ?_, ?_⟩
    · exact (bankAt_issue_write n s a b).trans (if_pos rfl)
    · exact (bankAt_issue_write n s a c).trans (if_neg hc)
    · rw [holds_issue_write]
      exact remaining_startWriteHolds b s i
    · rw [← satInc_word, issue_write_eq, issueWrite_eq]
      rfl

/-! ## The passing of one tclk -/

theorem isRunning_count (t : Timer) : t.count.isRunning = t.isRunning := by
  unfold Timer.count
  split <;> rfl

theorem interval_count (t : IntervalTimer) :
    t.count = match t with
      | .running n => .running (n - 1)
      | other => other := by
  cases t with
  | running n => cases n <;> rfl
  | _ => rfl

theorem idle_count (k : BankRecord) :
    k.count.idle = match k.state with
      | .opening _ => min (k.idle + 1) 4095
      | .opened _ => min (k.idle + 1) 4095
      | _ => k.idle := by
  unfold BankRecord.count
  cases k.state <;> rfl

theorem countPause_pausing (st : RunState) (q : Seq) (n : Nat) :
    countPause st (.pausing q n) = .pausing q (if st = .running then n - 1 else n) := by
  simp only [countPause]
  split <;> rfl

theorem countPause_of_not_pausing {st : RunState} {e : Expander} (h : ∀ q n, e ≠ .pausing q n) :
    countPause st e = e := by
  cases e with
  | pausing q n => exact absurd rfl (h q n)
  | _ => rfl

/-- Settles O47: every count by the count of its own record. -/
theorem tclkMovesEveryCount : Obligations.TclkMovesEveryCount := by
  intro s
  refine ⟨_, rfl, fun b => ⟨_, passTclk_bankAt s b, ?_⟩, fun r => ⟨_, passTclk_rankAt s r, ?_⟩, fun h => ?_,
    rfl, rfl, fun q n hpause => ?_, fun hpause => ?_, rfl, rfl, rfl⟩
  · exact ⟨Timer.remaining_count _, Timer.remaining_count _, Timer.remaining_count _, Timer.remaining_count _,
      Timer.remaining_count _, isRunning_count _, isRunning_count _, isRunning_count _, isRunning_count _,
      isRunning_count _, idle_count _, rfl, rfl, rfl⟩
  · exact ⟨rfl, Timer.remaining_count _, isRunning_count _, interval_count _, rfl, rfl, rfl⟩
  · exact (congrArg Timer.remaining (Holds.get_map s.holds h countHold)).trans (remaining_countHold _)
  · exact (congrArg (countPause s.run.state) hpause).trans (countPause_pausing _ q n)
  · exact countPause_of_not_pausing hpause

end Sys2Proof.Machine
end

/-!
The expiries of the bank table, the holds and the pause, and the take of a fenced descriptor
(R24, R34, R48–R55, R61, R71).
-/
section

namespace Sys2Proof.Machine

/-! ## Changes to one bank and one rank -/

/-- Only what a change makes of the bank's own record matters. -/
theorem modifyBank_congr {b : BankAddr} {f g : BankRecord → BankRecord} {s : State}
    (h : f (bankAt s b) = g (bankAt s b)) : modifyBank b f s = modifyBank b g s := by
  have hbanks : (modifyBank b f s).banks = (modifyBank b g s).banks := Banks.ext_get fun c => by
    have hf := bankAt_modifyBank b c f s
    have hg := bankAt_modifyBank b c g s
    rw [bankAt] at hf hg
    rw [hf, hg]
    split
    · next hc => rw [hc, h]
    · rfl
  exact congrArg (fun x => { s with banks := x }) hbanks

theorem modifyRank_congr {r : Rank} {f g : RankRecord → RankRecord} {s : State}
    (h : f (rankAt s r) = g (rankAt s r)) : modifyRank r f s = modifyRank r g s := by
  have hranks : (modifyRank r f s).ranks = (modifyRank r g s).ranks := PerRank.ext_get fun q => by
    have hf := rankAt_modifyRank r q f s
    have hg := rankAt_modifyRank r q g s
    rw [rankAt] at hf hg
    rw [hf, hg]
    split
    · next hq => rw [hq, h]
    · rfl
  exact congrArg (fun x => { s with ranks := x }) hranks

/-! ## Timers -/

theorem expire_eq (t : Timer) : t.expire = if t = .running 0 then .stopped else t := by
  cases t with
  | stopped => rfl
  | running n => cases n <;> rfl

theorem expire_of_not_due {t : Timer} (h : t ≠ .running 0) : t.expire = t := by rw [expire_eq, if_neg h]

theorem isDue_iff (t : Timer) : t.isDue = true ↔ t = .running 0 := by
  cases t with
  | stopped => simp [Timer.isDue]
  | running n => cases n <;> simp [Timer.isDue]

section Bank

variable {k : BankRecord}

theorem expireAccessReady_of_due {row : Nat} (h : k.accessReady = .running 0) (hstate : k.state = .opening row) :
    k.expireAccessReady = { k with accessReady := .stopped, state := .opened row } := by
  rw [BankRecord.expireAccessReady, if_pos ((isDue_iff _).mpr h), hstate]

theorem expireAccessReady_of_not_due (h : k.accessReady ≠ .running 0) : k.expireAccessReady = k := by
  rw [BankRecord.expireAccessReady, if_neg (mt (isDue_iff _).mp h)]

theorem expireCloseTime_of_due (h : k.closeTime = .running 0) (hstate : k.state = .closing) :
    k.expireCloseTime = { k with closeTime := .stopped, state := .closed } := by
  rw [BankRecord.expireCloseTime, if_pos ((isDue_iff _).mpr h), hstate]

theorem expireCloseTime_of_not_due (h : k.closeTime ≠ .running 0) : k.expireCloseTime = k := by
  rw [BankRecord.expireCloseTime, if_neg (mt (isDue_iff _).mp h)]

theorem expireRestore_of_not_due (h : k.restore ≠ .running 0) : k.expireRestore = k := by
  rw [BankRecord.expireRestore, expire_of_not_due h]

theorem expireWriteRecovery_of_not_due (h : k.writeRecovery ≠ .running 0) : k.expireWriteRecovery = k := by
  rw [BankRecord.expireWriteRecovery, expire_of_not_due h]

theorem expireReadCloseWait_of_not_due (h : k.readCloseWait ≠ .running 0) : k.expireReadCloseWait = k := by
  rw [BankRecord.expireReadCloseWait, expire_of_not_due h]

end Bank

theorem expireRefreshTime_of_due {k : RankRecord} (h : k.refreshTime = .running 0) :
    k.expireRefreshTime = { k with refreshTime := .stopped, state := .ready } := by
  rw [RankRecord.expireRefreshTime, if_pos ((isDue_iff _).mpr h)]

theorem expireRefreshTime_of_not_due {k : RankRecord} (h : k.refreshTime ≠ .running 0) :
    k.expireRefreshTime = k := by
  rw [RankRecord.expireRefreshTime, if_neg (mt (isDue_iff _).mp h)]

/-! ## Holds and idle closes -/

theorem holdExpired_expireHold (s : State) (h i : HoldId) :
    holdExpired (expireHold h s) i = holdExpired s i := by
  have hremaining : ((expireHold h s).holds.get i).remaining = (s.holds.get i).remaining := by
    rw [expireHold, Holds.get_modify]
    split
    · exact Timer.remaining_expire _
    · rfl
  rw [holdExpired, hremaining, holdExpired]

theorem close_mem_rung9 (s : State) (b : BankAddr) :
    ArrayCommand.close b ∈ rung s 9 ↔ offeredIdleClose s b = true := by
  change _ ∈ ((allBanks.filter (offeredIdleClose s)).foldr (insertByIdle s) []).map ArrayCommand.close ↔ _
  rw [List.mem_map_of_injective fun _ _ => ArrayCommand.close.inj, mem_foldr_insertByIdle, List.mem_filter]
  exact and_iff_right (mem_allBanks b)

/-- Settles O48: a timer stops only when due, and what is written back unchanged changes nothing. -/
theorem timerExpiries : Obligations.TimerExpiries := by
  refine ⟨fun s h => ⟨_, rfl, ?_, fun i hi => ?_, holdExpired_expireHold s h, rfl⟩,
    fun s b => ⟨rfl, (close_mem_rung9 s b).trans (offeredIdleClose_iff s b)⟩, fun s b r => ?_⟩
  · exact (Holds.get_modify s.holds h h _).trans ((if_pos rfl).trans (expire_eq _))
  · exact (Holds.get_modify s.holds h i _).trans (if_neg hi)
  · intro toBank k
    have hto {f : BankRecord → BankRecord} {k' : BankRecord} (hf : f k = k') :
        Host.Outcome.next (modifyBank b f s) = toBank k' :=
      congrArg Host.Outcome.next (modifyBank_congr (g := fun _ => k') hf)
    have hkeep {f : BankRecord → BankRecord} (hf : f k = k) :
        (Host.Outcome.next (modifyBank b f s) : Host.Outcome State Fault Refusal) = .next s :=
      congrArg Host.Outcome.next (modifyBank_id b f s hf)
    exact ⟨fun row h hstate => hto (expireAccessReady_of_due h hstate),
      fun h => hto (congrArg (fun t => { k with restore := t.expire }) h),
      fun h => hto (congrArg (fun t => { k with writeRecovery := t.expire }) h),
      fun h => hto (congrArg (fun t => { k with readCloseWait := t.expire }) h),
      fun h hstate => hto (expireCloseTime_of_due h hstate),
      fun h => congrArg Host.Outcome.next (modifyRank_congr (expireRefreshTime_of_due h)),
      fun h => hkeep (expireAccessReady_of_not_due h), fun h => hkeep (expireRestore_of_not_due h),
      fun h => hkeep (expireWriteRecovery_of_not_due h), fun h => hkeep (expireReadCloseWait_of_not_due h),
      fun h => hkeep (expireCloseTime_of_not_due h),
      fun h => congrArg Host.Outcome.next (modifyRank_id r _ s (expireRefreshTime_of_not_due h))⟩

/-! ## The take of a fenced descriptor (R24) -/

section Fence

variable {s : State} {d : Descriptor} {rest : List Descriptor}

/-- The fenced descriptor is taken as the head in RUNNING. -/
theorem fenceTake_head (hwait : s.expander = .fenceWait d.seq) (hrun : s.run.state = .running)
    (hqueue : s.intake.queue = d :: rest) : fenceTake s = takeDescriptor d s := by
  have hhead : headSeq? s = some d.seq := (headSeq?_eq_some_iff (ahead := []) hqueue (by simp)).mpr rfl
  have hfind : findDescriptor s d.seq = some d := findDescriptor_one (ahead := []) hqueue (by simp)
  simp only [fenceTake, hwait, hrun, hhead, hfind, and_self, if_true]

theorem fenceTake_of_not_head {q : Seq} (hwait : s.expander = .fenceWait q)
    (h : s.run.state ≠ .running ∨ ∀ d rest, s.intake.queue = d :: rest → d.seq ≠ q) : fenceTake s = s := by
  have hnot : ¬ (s.run.state = .running ∧ headSeq? s = some q) := by
    rintro ⟨hrun, hhead⟩
    rcases h with h | h
    · exact h hrun
    · cases hqueue : s.intake.queue with
      | nil => simp [headSeq?, hqueue] at hhead
      | cons d rest => exact h d rest hqueue (by simpa [headSeq?, hqueue] using hhead)
  simp only [fenceTake, hwait, if_neg hnot]

end Fence

theorem pauseExpiry_due {s : State} {q : Seq} (h : s.expander = .pausing q 0) (hrun : s.run.state = .running) :
    pauseExpiry s = examine (endPause q false s) := by
  simp only [pauseExpiry, h, hrun, and_self, if_true]

theorem pauseExpiry_of_counting {s : State} {q : Seq} {n : Nat} (h : s.expander = .pausing q (n + 1)) :
    pauseExpiry s = s := by
  simp only [pauseExpiry, h, Nat.add_one_ne_zero, and_false, if_false]

/-- Settles O49: the pause ends when its count has run out, and a fenced head is taken as its kind says. -/
theorem pauseExpiryAndFenceTake : Obligations.PauseExpiryAndFenceTake := by
  intro s
  have hlife {d : Descriptor} {rest : List Descriptor} (hqueue : s.intake.queue = d :: rest)
      (hrest : ∀ x ∈ rest, x.seq ≠ d.seq) :
      setLife d.seq .expanding s = { s with intake.queue := { d with life := .expanding } :: rest } :=
    setLife_one (ahead := []) hqueue (by simp) hrest .expanding
  refine ⟨rfl, fun q h hrun => congrArg Host.Outcome.next (pauseExpiry_due h hrun),
    fun q n h => congrArg Host.Outcome.next (pauseExpiry_of_counting h),
    fun d rest r hwait hrun hqueue hwork hrest => congrArg Host.Outcome.next ?_,
    fun d rest f hwait hrun hqueue hwork hrest => congrArg Host.Outcome.next ?_,
    fun d rest n h hwait hrun hqueue hwork hrest => ?_,
    fun q hwait h => congrArg Host.Outcome.next (fenceTake_of_not_head hwait h)⟩
  · rw [fenceTake_head hwait hrun hqueue, takeDescriptor, hlife hqueue hrest, hwork]
    rfl
  · rw [fenceTake_head hwait hrun hqueue, takeDescriptor, hlife hqueue hrest, hwork]
    rfl
  · have htake : fenceTake s =
        beginPause d.seq n h { s with intake.queue := { d with life := .expanding } :: rest } := by
      rw [fenceTake_head hwait hrun hqueue, takeDescriptor, hlife hqueue hrest, hwork]
    obtain ⟨x, y, hpause, hx, hy⟩ :=
      beginPause_holds d.seq n h { s with intake.queue := { d with life := .expanding } :: rest }
    exact ⟨_, congrArg Host.Outcome.next (htake.trans hpause), rfl, rfl, hx, hy, rfl⟩

end Sys2Proof.Machine
end

/-!
What the end of a write data phase, an expired deadline and a result of the sweep in hand change
(R17, R132, R135, R177, R181).
-/
section

namespace Sys2Proof.Machine

/-! ## The end of a write data phase (R135) -/

theorem writeDataPhaseEnd_cons {s : State} {p : WritePhase} {rest : List WritePhase}
    (h : s.reads.writePhases = p :: rest) :
    writeDataPhaseEnd s = if p.remaining = 0 then takeWritePhaseEnd p rest s else s := by
  simp only [writeDataPhaseEnd, h]

theorem deadlineExpiry_cons {s : State} {e : InFlight} {rest : List InFlight}
    (h : s.reads.inFlight = e :: rest) :
    deadlineExpiry s = if e.deadline = 0 then takeDeadline s else s := by
  simp only [deadlineExpiry, h]

/-! ## A result of the sweep in hand (R177) -/

section Sweep

variable {s : State} {step : SweepStep} {w : Sweep}

theorem sweepResult_of_not_sweeping (h : ∀ step w, s.expander ≠ .sweeping step w) (q : Seq) (failed : Bool) :
    sweepResult q failed s = s := by
  unfold sweepResult
  split
  · next step w hw => exact absurd hw (h step w)
  · rfl

theorem sweepResult_of_other_seq (h : s.expander = .sweeping step w) {q : Seq} (hq : w.seq ≠ q) (failed : Bool) :
    sweepResult q failed s = s := by
  simp only [sweepResult, h, if_neg hq]

/-- Any result but the last outstanding one of a tap in SWEEP_COLLECT is only counted. -/
theorem sweepResult_counted (h : s.expander = .sweeping step w) (failed : Bool)
    (hgoes : w.abortMark = true ∨ w.endDue = true ∨ step ≠ .collect ∨ 2 ≤ w.readsOutstanding) :
    sweepResult w.seq failed s = setExpander (.sweeping step (w.counted failed)) s := by
  have hnot : ¬ (step = .collect ∧ w.abortMark = false ∧ w.endDue = false ∧ w.readsOutstanding - 1 = 0) := by
    rintro ⟨hstep, hmark, hdue, hout⟩
    rcases hgoes with hgoes | hgoes | hgoes | hgoes
    · exact absurd (hgoes.symm.trans hmark) (by decide)
    · exact absurd (hgoes.symm.trans hdue) (by decide)
    · exact hgoes hstep
    · omega
  rw [sweepResult, h]
  exact (if_pos rfl).trans (if_neg hnot)

/-- The last outstanding result of a tap in SWEEP_COLLECT finishes the tap. -/
theorem sweepResult_last (h : s.expander = .sweeping .collect w) (failed : Bool) (hmark : w.abortMark = false)
    (hdue : w.endDue = false) (hout : w.readsOutstanding = 1) :
    sweepResult w.seq failed s = finishTap (w.counted failed) s := by
  have hlast : w.readsOutstanding - 1 = 0 := by omega
  rw [sweepResult, h]
  exact (if_pos rfl).trans (if_pos ⟨rfl, hmark, hdue, hlast⟩)

theorem finishTap_of_end (h : w.tapUnderTest = w.fields.tapLast ∨ w.stopMark = true) :
    finishTap w s = setExpander (.sweeping .collect { w with endDue := true })
      (putSweepEntry w.tapUnderTest ⟨true, .ofNat 8 w.mismatches⟩ s) := by
  rw [finishTap, if_pos h]

theorem finishTap_of_next (h : w.tapUnderTest ≠ w.fields.tapLast) (hstop : w.stopMark = false) :
    finishTap w s = setExpander
      (.sweeping .settle { w with tapUnderTest := w.tapUnderTest + 1, readsPlaced := 0, mismatches := 0 })
      (putSweepEntry w.tapUnderTest ⟨true, .ofNat 8 w.mismatches⟩ s) := by
  have hnot : ¬ (w.tapUnderTest = w.fields.tapLast ∨ w.stopMark = true) := by simp [h, hstop]
  rw [finishTap, if_neg hnot]

/-! ## The wind-down (R181) -/

theorem windDownSweep_of_not_sweeping (h : ∀ step w, s.expander ≠ .sweeping step w) :
    windDownSweep s = s := by
  unfold windDownSweep
  split
  · next step w hw => exact absurd hw (h step w)
  · rfl

theorem windDownSweep_of_sweeping (h : s.expander = .sweeping step w) :
    windDownSweep s = if w.abortMark = true ∧ s.reads.inFlight = [] then
      setExpander .idle (setTap w.fields.lane w.originalTap s) else s := by
  simp only [windDownSweep, h]

theorem windDownSweep_of_no_mark (h : s.expander = .sweeping step w) (hmark : w.abortMark = false) :
    windDownSweep s = s := by
  rw [windDownSweep_of_sweeping h, if_neg]
  rintro ⟨hm, -⟩
  exact absurd (hm.symm.trans hmark) (by decide)

end Sweep

/-! ## What the descriptors count of the lost reads (R132) -/

/-- A descriptor that loses one of its reads. -/
def Descriptor.loseRead (st : RunState) (d : Descriptor) : Descriptor :=
  { d.completeAccess st with lost := satInc d.lost }

theorem loseRead_queue (s : State) (e : InFlight) :
    (loseRead s e).intake.queue =
      s.intake.queue.map fun d => if d.seq = e.seq then d.loseRead s.run.state else d := by
  unfold loseRead
  dsimp only
  split
  · rw [sweepResult_queue]
    rfl
  · rfl

theorem loseRead_runState (s : State) (e : InFlight) : (loseRead s e).run.state = s.run.state := by
  obtain ⟨_, _, _, _, h⟩ := loseRead_frame s e
  rw [h]

theorem foldl_loseRead_queue (l : List InFlight) (s : State) :
    (l.foldl loseRead s).intake.queue = s.intake.queue.map fun d =>
      l.foldl (fun d e => if d.seq = e.seq then d.loseRead s.run.state else d) d := by
  induction l generalizing s with
  | nil => exact (List.map_id' _).symm
  | cons e l ih =>
    rw [List.foldl_cons, ih, loseRead_queue, loseRead_runState, List.map_map]
    rfl

/-- A descriptor that has lost `n` reads. -/
def Descriptor.loseReads (st : RunState) (n : Nat) (d : Descriptor) : Descriptor :=
  { d with
    completed := d.completed + n
    lost := .ofNat 8 (min (d.lost.toNat + n) 255)
    life :=
      if st ≠ .aborting ∧ d.life = .expanded ∧ d.completed < d.total ∧ d.total ≤ d.completed + n then .complete
      else d.life }

theorem loseReads_zero (st : RunState) (d : Descriptor) : d.loseReads st 0 = d := by
  have hlost : BitVec.ofNat 8 (min d.lost.toNat 255) = d.lost := by
    rw [Nat.min_eq_left (by have := d.lost.isLt; omega), BitVec.ofNat_toNat, BitVec.setWidth_eq]
  have hlife : ¬ (st ≠ .aborting ∧ d.life = .expanded ∧ d.completed < d.total ∧ d.total ≤ d.completed) := by
    omega
  simp only [Descriptor.loseReads, Nat.add_zero, hlost, if_neg hlife]

/-- One read lost and then `n` are `n + 1` lost. -/
theorem loseReads_loseRead (st : RunState) (n : Nat) (d : Descriptor) :
    (d.loseRead st).loseReads st n = d.loseReads st (n + 1) := by
  have hlost : BitVec.ofNat 8 (min ((satInc d.lost).toNat + n) 255) =
      .ofNat 8 (min (d.lost.toNat + (n + 1)) 255) := by
    rw [satInc_toNat]
    congr 1
    omega
  have hcompleted : d.completed + 1 + n = d.completed + (n + 1) := by omega
  simp only [Descriptor.loseReads, Descriptor.loseRead, Descriptor.completeAccess, hlost, hcompleted]
  congr 1
  by_cases hlive : st ≠ .aborting ∧ d.life = .expanded
  · obtain ⟨hst, hlife⟩ := hlive
    simp only [hst, hlife, ne_eq, not_false_eq_true, true_and]
    by_cases hone : d.completed + 1 = d.total
    · have : d.completed < d.total ∧ d.total ≤ d.completed + (n + 1) := by omega
      simp [hone, this]
    · simp only [hone, if_false, true_and]
      congr 1
      exact propext (by omega)
  · have hnot (p : Prop) : ¬ (st ≠ .aborting ∧ d.life = .expanded ∧ p) := fun h => hlive ⟨h.1, h.2.1⟩
    have hnot' (p q : Prop) : ¬ (st ≠ .aborting ∧ d.life = .expanded ∧ p ∧ q) := hnot (p ∧ q)
    simp only [if_neg (hnot _)]

theorem foldl_loseRead (st : RunState) (l : List InFlight) (d : Descriptor) :
    l.foldl (fun d e => if d.seq = e.seq then d.loseRead st else d) d =
      d.loseReads st (l.countP fun x => x.seq = d.seq) := by
  induction l generalizing d with
  | nil => exact (loseReads_zero st d).symm
  | cons e l ih =>
    rw [List.foldl_cons]
    by_cases h : d.seq = e.seq
    · rw [if_pos h, ih, List.countP_cons_of_pos (by simp [h])]
      exact loseReads_loseRead st _ d
    · rw [if_neg h, ih, List.countP_cons_of_neg (by simpa using Ne.symm h)]

/-! ## What the lost reads make of the sweep in hand (R132, R177) -/

/-- A lost read is a failed result for the sweep unit when it is a sweep read, and nothing else to it. -/
theorem loseRead_sweep (s : State) (e : InFlight) :
    ∃ u, u.expander = s.expander ∧ u.sweep = s.sweep ∧
      loseRead s e = if e.sweepRead = true then sweepResult e.seq true u else u :=
  ⟨countReadLost (modifyDescriptor e.seq (Descriptor.loseRead s.run.state) s), rfl, rfl, rfl⟩

theorem foldl_loseRead_of_not_sweeping (l : List InFlight) {s : State}
    (h : ∀ step w, s.expander ≠ .sweeping step w) :
    (l.foldl loseRead s).expander = s.expander ∧ (l.foldl loseRead s).sweep = s.sweep := by
  induction l generalizing s with
  | nil => exact ⟨rfl, rfl⟩
  | cons e l ih =>
    obtain ⟨u, hexpander, hsweep, hlose⟩ := loseRead_sweep s e
    have hu : loseRead s e = u := by
      rw [hlose, sweepResult_of_not_sweeping (hexpander ▸ h), ite_self]
    rw [List.foldl_cons, hu, ← hexpander, ← hsweep]
    exact ih (hexpander ▸ h)

/-- Under the abort mark the sweep only counts. -/
theorem foldl_loseRead_of_mark (l : List InFlight) {s : State} {step : SweepStep} {w : Sweep}
    (h : s.expander = .sweeping step w) (hmark : w.abortMark = true) :
    (l.foldl loseRead s).sweep = s.sweep ∧ ∃ w', (l.foldl loseRead s).expander = .sweeping step w' ∧
      w'.abortMark = true ∧ w'.fields = w.fields ∧ w'.originalTap = w.originalTap := by
  induction l generalizing s w with
  | nil => exact ⟨rfl, w, h, hmark, rfl, rfl⟩
  | cons e l ih =>
    obtain ⟨u, hexpander, hsweep, hlose⟩ := loseRead_sweep s e
    rw [List.foldl_cons, hlose, ← hsweep]
    rw [← hexpander] at h
    by_cases hq : e.sweepRead = true ∧ w.seq = e.seq
    · obtain ⟨hread, hseq⟩ := hq
      rw [if_pos hread, ← hseq, sweepResult_counted h true (.inl hmark)]
      exact ih (w := w.counted true) rfl hmark
    · have hu : (if e.sweepRead = true then sweepResult e.seq true u else u) = u := by
        split
        · next hread => exact sweepResult_of_other_seq h (fun hseq => hq ⟨hread, hseq⟩) true
        · rfl
      rw [hu]
      exact ih h hmark

/-- Reads of the sweep in hand that are lost while more are outstanding, or before SWEEP_COLLECT, are
counted as mismatches. -/
theorem foldl_loseRead_counted (l : List InFlight) {s : State} {step : SweepStep} {w : Sweep}
    (h : s.expander = .sweeping step w) (hreads : ∀ x ∈ l, x.sweepRead = true ∧ x.seq = w.seq)
    (hgoes : step ≠ .collect ∨ l.length < w.readsOutstanding) :
    (l.foldl loseRead s).sweep = s.sweep ∧ (l.foldl loseRead s).expander = .sweeping step
      { w with
        readsOutstanding := w.readsOutstanding - l.length, mismatches := w.mismatches + l.length } := by
  induction l generalizing s w with
  | nil => exact ⟨rfl, h⟩
  | cons e l ih =>
    obtain ⟨⟨hread, hseq⟩, hreads⟩ := List.forall_mem_cons.mp hreads
    obtain ⟨u, hexpander, hsweep, hlose⟩ := loseRead_sweep s e
    rw [← hexpander] at h
    have hfirst : step ≠ .collect ∨ 2 ≤ w.readsOutstanding := hgoes.imp_right fun hlt => by
      rw [List.length_cons] at hlt
      omega
    have hrest : step ≠ .collect ∨ l.length < (w.counted true).readsOutstanding := hgoes.imp_right fun hlt => by
      rw [List.length_cons] at hlt
      change l.length < w.readsOutstanding - 1
      omega
    rw [List.foldl_cons, hlose, if_pos hread, hseq, sweepResult_counted h true (.inr (.inr hfirst)), ← hsweep]
    obtain ⟨hkeep, hcounts⟩ := ih (s := setExpander _ u) (w := w.counted true) rfl hreads hrest
    refine ⟨hkeep, hcounts.trans ?_⟩
    have hout : w.readsOutstanding - 1 - l.length = w.readsOutstanding - (l.length + 1) := by omega
    have hmisses : w.mismatches + 1 + l.length = w.mismatches + (l.length + 1) := by omega
    simp only [Sweep.counted, if_true, List.length_cons, hout, hmisses]

/-- The last outstanding reads of a tap, lost in SWEEP_COLLECT, finish it. -/
theorem foldl_loseRead_last {l : List InFlight} {s : State} {w : Sweep} (hne : l ≠ [])
    (h : s.expander = .sweeping .collect w) (hmark : w.abortMark = false) (hdue : w.endDue = false)
    (hreads : ∀ x ∈ l, x.sweepRead = true ∧ x.seq = w.seq) (hout : w.readsOutstanding = l.length) :
    ∃ u, u.sweep = s.sweep ∧ l.foldl loseRead s = finishTap
      { w with readsOutstanding := 0, mismatches := w.mismatches + l.length } u := by
  obtain ⟨front, last, rfl⟩ := (List.eq_nil_or_concat' l).resolve_left hne
  obtain ⟨hfront, hlast⟩ := List.forall_mem_append.mp hreads
  obtain ⟨hread, hseq⟩ := hlast last List.mem_cons_self
  rw [List.length_append, List.length_singleton] at hout
  obtain ⟨hkeep, hcounts⟩ := foldl_loseRead_counted front h hfront (.inr (by omega))
  obtain ⟨u, hexpander, hsweep, hlose⟩ := loseRead_sweep (front.foldl loseRead s) last
  refine ⟨u, hsweep.trans hkeep, ?_⟩
  have hone : w.readsOutstanding - front.length = 1 := by omega
  rw [List.foldl_append, List.foldl_cons, List.foldl_nil, hlose, if_pos hread, hseq,
    sweepResult_last (hexpander.trans hcounts) true hmark hdue hone]
  simp only [Sweep.counted, if_true, hone, List.length_append, List.length_singleton, Nat.add_assoc]

/-! ## The expiry of a deadline (R132) -/

theorem iterate_satInc (n : Nat) (x : Word) :
    satInc^[n] x = .ofNat 32 (min (x.toNat + n) (2 ^ 32 - 1)) := by
  refine BitVec.eq_of_toNat_eq ?_
  rw [iterate_satInc_toNat, BitVec.toNat_ofNat, Nat.mod_eq_of_lt (by omega)]

/-- Every read in flight lost. -/
def loseAll (s : State) : State := s.reads.inFlight.foldl loseRead { s with reads.inFlight := [] }

/-- An expired deadline, after the reads are lost: the timeout, the wind-down and the request. -/
theorem takeDeadline_eq (s : State) :
    takeDeadline s = sendHalt .readTimeout
      (windDownSweep { loseAll s with reads.timeouts := satInc (loseAll s).reads.timeouts }) := rfl

theorem loseAll_frame (s : State) :
    ∃ x1 x2 x3 x4, loseAll s = { s with
      reads.inFlight := [], intake.queue := x1, run.stats.readsLost := x2, expander := x3
      sweep.table := x4 } :=
  loseReads_frame s.reads.inFlight { s with reads.inFlight := [] }

theorem takeDeadline_queue (s : State) :
    (takeDeadline s).intake.queue = s.intake.queue.map fun d =>
      d.loseReads s.run.state (s.reads.inFlight.countP fun x => x.seq = d.seq) := by
  rw [takeDeadline_eq, sendHalt_intake, windDownSweep_queue]
  refine (foldl_loseRead_queue _ _).trans (List.map_congr_left fun d _ => foldl_loseRead _ _ d)

theorem takeDeadline_timeouts (s : State) : (takeDeadline s).reads.timeouts = satInc s.reads.timeouts := by
  obtain ⟨_, _, _, _, hlost⟩ := loseAll_frame s
  rw [takeDeadline_eq, hlost, sendHalt_reads]
  obtain ⟨_, _, h⟩ := windDownSweep_frame _
  rw [h]

theorem takeDeadline_haltRequests (s : State) :
    (takeDeadline s).messages.haltRequests = s.messages.haltRequests ++ [.readTimeout] := by
  obtain ⟨_, _, _, _, hlost⟩ := loseAll_frame s
  rw [takeDeadline_eq, hlost]
  obtain ⟨_, _, h⟩ := windDownSweep_frame _
  rw [h]
  rfl

/-- The sweep in hand is wound down from what the lost reads make of it. -/
theorem takeDeadline_sweep (s : State) :
    ∃ v : State, v.reads.inFlight = [] ∧
      v.expander = (loseAll s).expander ∧ v.sweep = (loseAll s).sweep ∧
      (takeDeadline s).expander = (windDownSweep v).expander ∧
      (takeDeadline s).sweep = (windDownSweep v).sweep := by
  obtain ⟨_, _, _, _, hlost⟩ := loseAll_frame s
  exact ⟨{ loseAll s with reads.timeouts := satInc (loseAll s).reads.timeouts },
    congrArg (fun u : State => u.reads.inFlight) hlost, rfl, rfl, rfl, rfl⟩

theorem takeDeadline_of_not_sweeping {s : State} (h : ∀ step w, s.expander ≠ .sweeping step w) :
    (takeDeadline s).expander = s.expander ∧ (takeDeadline s).sweep = s.sweep := by
  obtain ⟨v, -, hexpander, hsweep, he, hs⟩ := takeDeadline_sweep s
  obtain ⟨hfold, hfold'⟩ : (loseAll s).expander = s.expander ∧ (loseAll s).sweep = s.sweep :=
    foldl_loseRead_of_not_sweeping _ h
  rw [hfold] at hexpander
  rw [windDownSweep_of_not_sweeping (hexpander ▸ h)] at he hs
  exact ⟨he.trans hexpander, hs.trans (hsweep.trans hfold')⟩

section Sweeping

variable {s : State} {step : SweepStep} {w : Sweep} (h : s.expander = .sweeping step w)
include h

theorem takeDeadline_of_mark (hmark : w.abortMark = true) :
    (takeDeadline s).expander = .idle ∧
      (takeDeadline s).sweep =
        { s.sweep with taps := s.sweep.taps.modify w.fields.lane fun _ => w.originalTap } := by
  obtain ⟨v, hflight, hexpander, hsweep, he, hs⟩ := takeDeadline_sweep s
  obtain ⟨hkeep, w', hfold, hmark', hfields, htap⟩ :=
    foldl_loseRead_of_mark s.reads.inFlight (s := { s with reads.inFlight := [] }) h hmark
  rw [windDownSweep_of_sweeping (hexpander.trans hfold), if_pos ⟨hmark', hflight⟩, hfields, htap] at he hs
  have hkept : v.sweep = s.sweep := hsweep.trans hkeep
  refine ⟨he, hs.trans ?_⟩
  rw [setExpander_sweep, setTap_sweep, hkept]

theorem takeDeadline_counted (hmark : w.abortMark = false)
    (hreads : ∀ x ∈ s.reads.inFlight, x.sweepRead = true ∧ x.seq = w.seq)
    (hgoes : step ≠ .collect ∨ s.reads.inFlight.length < w.readsOutstanding) :
    (takeDeadline s).expander = .sweeping step
      { w with
        readsOutstanding := w.readsOutstanding - s.reads.inFlight.length
        mismatches := w.mismatches + s.reads.inFlight.length } ∧ (takeDeadline s).sweep = s.sweep := by
  obtain ⟨v, -, hexpander, hsweep, he, hs⟩ := takeDeadline_sweep s
  obtain ⟨hkeep, hfold⟩ :=
    foldl_loseRead_counted s.reads.inFlight (s := { s with reads.inFlight := [] }) h hreads hgoes
  rw [windDownSweep_of_no_mark (hexpander.trans hfold) hmark] at he hs
  exact ⟨he.trans (hexpander.trans hfold), hs.trans (hsweep.trans hkeep)⟩

theorem takeDeadline_last (hmark : w.abortMark = false) (hdue : w.endDue = false)
    (hreads : ∀ x ∈ s.reads.inFlight, x.sweepRead = true ∧ x.seq = w.seq) (hne : s.reads.inFlight ≠ [])
    (hstep : step = .collect) (hout : w.readsOutstanding = s.reads.inFlight.length) :
    ∃ u, u.sweep = s.sweep ∧
      (takeDeadline s).expander = (finishTap
        { w with readsOutstanding := 0, mismatches := w.mismatches + s.reads.inFlight.length } u).expander ∧
      (takeDeadline s).sweep = (finishTap
        { w with readsOutstanding := 0, mismatches := w.mismatches + s.reads.inFlight.length } u).sweep := by
  subst hstep
  obtain ⟨v, -, hexpander, hsweep, he, hs⟩ := takeDeadline_sweep s
  obtain ⟨u, hu, hfold⟩ :=
    foldl_loseRead_last (s := { s with reads.inFlight := [] }) hne h hmark hdue hreads hout
  have hfinished := hexpander.trans (congrArg State.expander hfold)
  obtain ⟨step', w', hfinish, hmark'⟩ : ∃ step' w', (finishTap
      { w with readsOutstanding := 0, mismatches := w.mismatches + s.reads.inFlight.length } u).expander =
        .sweeping step' w' ∧ w'.abortMark = false := by
    unfold finishTap
    dsimp only
    split
    · exact ⟨_, _, rfl, hmark⟩
    · exact ⟨_, _, rfl, hmark⟩
  rw [windDownSweep_of_no_mark (hfinished.trans hfinish) hmark'] at he hs
  exact ⟨u, hu, he.trans hfinished, hs.trans (hsweep.trans (congrArg State.sweep hfold))⟩

end Sweeping

/-- Settles O50: what the lost reads make of the descriptors and of the sweep in hand are two inductions over the
in-flight list, put together with the wind-down. -/
theorem phaseEndsAndDeadlines : Obligations.PhaseEndsAndDeadlines := by
  refine ⟨fun s p rest h => ⟨fun hremaining => congrArg Host.Outcome.next ?_,
    fun hremaining => congrArg Host.Outcome.next ?_⟩, fun s e rest h => ⟨fun hdeadline => congrArg Host.Outcome.next ?_,
      fun hdeadline => ?_⟩⟩
  · rw [writeDataPhaseEnd_cons h, if_neg hremaining]
  · rw [writeDataPhaseEnd_cons h, if_pos hremaining]
    rfl
  · rw [deadlineExpiry_cons h, if_neg hdeadline]
  · have htaken : deadlineExpiry s = takeDeadline s := by rw [deadlineExpiry_cons h, if_pos hdeadline]
    obtain ⟨hflight, -, -, hlost⟩ := takeDeadline_reads s
    have hlength : s.reads.inFlight.length = rest.length + 1 := by rw [h, List.length_cons]
    have hne : s.reads.inFlight ≠ [] := by simp [h]
    refine ⟨_, congrArg Host.Outcome.next htaken, hflight, ?_, takeDeadline_haltRequests s, ?_, ?_,
      fun i hi hi' => ?_, ?_, takeDeadline_of_not_sweeping, fun step w hw => ⟨takeDeadline_of_mark hw,
        fun hmark hdue hreads hle => ?_⟩⟩
    · rw [takeDeadline_timeouts, satInc_eq]
      rfl
    · rw [hlost, iterate_satInc, hlength]
    · rw [takeDeadline_queue, List.length_map]
    · have hqueue := takeDeadline_queue s
      rw [h] at hqueue
      rw [List.getElem_of_eq hqueue hi', List.getElem_map]
      rfl
    · obtain ⟨x, _, _, _, _, _, _, hframe⟩ := takeDeadline_frame s
      have hx : x = [] := by
        rw [hframe] at hflight
        exact hflight
      rw [hframe, hx]
    · rw [← h] at hreads
      rw [← hlength] at hle ⊢
      refine ⟨fun hgoes => takeDeadline_counted hw hmark hreads hgoes, fun hstep hout => ?_⟩
      obtain ⟨u, hu, he, hs⟩ := takeDeadline_last hw hmark hdue hreads hne hstep hout
      rw [he, hs, hout, Nat.sub_self, ← hu]
      refine ⟨?_, fun hend => ?_, fun hnext hstop => ?_⟩
      · unfold finishTap
        dsimp only
        split <;> rfl
      · rw [finishTap_of_end (w := { w with readsOutstanding := 0, mismatches := _ }) hend]
        rfl
      · rw [finishTap_of_next (w := { w with readsOutstanding := 0, mismatches := _ }) hnext hstop]
        rfl

end Sys2Proof.Machine
end

/-!
The compare of two bursts (R122, R123).
-/
section

namespace Sys2Proof.Machine

/-! ## Masks as sets of lanes -/

theorem foldl_or_getLsbD {α : Type} {n : Nat} (f : α → BitVec n) (l : List α) (x : BitVec n) (i : Nat) :
    (l.foldl (fun m b => m ||| f b) x).getLsbD i = true ↔
      x.getLsbD i = true ∨ ∃ b ∈ l, (f b).getLsbD i = true := by
  induction l generalizing x with
  | nil => simp
  | cons a l ih =>
    rw [List.foldl_cons, ih, BitVec.getLsbD_or, Bool.or_eq_true, or_assoc, List.exists_mem_cons_iff]

/-! ## The compare -/

section Compare

variable (ignore : Word) (captured expected : Burst)

/-- A lane of a beat differs when it is not ignored and the two bursts hold different values in it. -/
theorem beatDifference_getLsbD (b : Fin 8) (L : Fin 32) :
    (beatDifference ignore captured expected b).getLsbD L.val = true ↔
      ignore.getLsbD L.val = false ∧ captured[b].getLsbD L.val ≠ expected[b].getLsbD L.val := by
  rw [beatDifference, BitVec.getLsbD_and, BitVec.getLsbD_xor, BitVec.getLsbD_not]
  simp only [L.isLt, decide_true, Bool.true_and, Bool.and_eq_true, Bool.not_eq_true', bne_iff_ne, ne_eq]
  exact and_comm

theorem laneMask_getLsbD (L : Fin 32) :
    (compareBursts ignore captured expected).laneMask.getLsbD L.val = true ↔
      ∃ b : Fin 8, (beatDifference ignore captured expected b).getLsbD L.val = true := by
  refine (foldl_or_getLsbD (beatDifference ignore captured expected) _ 0 _).trans ?_
  simp

theorem beatMask_getLsbD (b : Fin 8) :
    (compareBursts ignore captured expected).beatMask.getLsbD b.val = true ↔
      ∃ L : Fin 32, (beatDifference ignore captured expected b).getLsbD L.val = true := by
  rw [← ne_zero_iff_getLsbD]
  simp [compareBursts]

end Compare

theorem miscompares_iff (r : CompareResult) : r.miscompares = true ↔ r.laneMask ≠ 0 := bne_iff_ne

theorem byteLaneFails_iff (r : CompareResult) (k : Quad) :
    r.byteLaneFails k = true ↔ ∃ L : Fin 32, L.val / 8 = k.num ∧ r.laneMask.getLsbD L.val = true := by
  have hk := quad_num_lt k
  rw [CompareResult.byteLaneFails, bne_iff_ne, ne_zero_iff_getLsbD]
  simp only [BitVec.getLsbD_extractLsb', Bool.and_eq_true, decide_eq_true_eq]
  constructor
  · rintro ⟨i, -, hbit⟩
    exact ⟨⟨8 * k.num + i.val, by omega⟩, by dsimp only; omega, hbit⟩
  · rintro ⟨L, hL, hbit⟩
    refine ⟨⟨L.val - 8 * k.num, by omega⟩, by dsimp only; omega, ?_⟩
    have hplace : 8 * k.num + (L.val - 8 * k.num) = L.val := by omega
    rwa [hplace]

/-- Settles O52: each mask bit by bit, as the differences of the beats. -/
theorem compareMasksDiffer : Obligations.CompareMasksDiffer := by
  intro ignore captured expected r differs
  have hlane (L : Fin 32) : r.laneMask.getLsbD L.val = true ↔ ∃ b, differs L b :=
    (laneMask_getLsbD ignore captured expected L).trans
      (exists_congr fun b => beatDifference_getLsbD ignore captured expected b L)
  have hbeat (b : Fin 8) : r.beatMask.getLsbD b.val = true ↔ ∃ L, differs L b :=
    (beatMask_getLsbD ignore captured expected b).trans
      (exists_congr fun L => beatDifference_getLsbD ignore captured expected b L)
  refine ⟨hlane, hbeat, miscompares_iff r, ?_, byteLaneFails_iff r⟩
  rw [← not_iff_not]
  change r.laneMask ≠ 0 ↔ r.beatMask ≠ 0
  simp only [ne_zero_iff_getLsbD, hlane, hbeat]
  exact exists_comm

end Sys2Proof.Machine
end

/-!
Data arrivals: those that find no read, those of ordinary reads, and those of the sweep in hand
(R128–R133, R137, R177, R181, R191).
-/
section

namespace Sys2Proof.Machine

/-! ## Which burst an arrival takes (R128, R191) -/

section Arrival

variable {s : State}

theorem dataArrival_of_waiting {x : Burst} {rest : List Burst} (h : s.capture.arrivals = x :: rest) :
    dataArrival s = takeArrival x { s with capture.arrivals := rest } := by
  simp only [dataArrival, takeOldestArrival, h, List.isEmpty_cons, Bool.false_eq_true, if_false]

theorem dataArrival_of_none (h : s.capture.arrivals = []) :
    dataArrival s = takeOldestArrival (finishAgedBurst s) := by
  simp only [dataArrival, h, List.isEmpty_nil, if_true]

theorem takeOldestArrival_of_none (h : s.capture.arrivals = []) : takeOldestArrival s = s := by
  rw [takeOldestArrival, h]

theorem finishAgedBurst_of_aged {b : OpenBurst} (hb : s.capture.burst = some b) (hage : 6 ≤ b.age) :
    finishAgedBurst s = finishBurst b s := by
  rw [finishAgedBurst, hb]
  exact if_pos hage

theorem finishAgedBurst_of_young (h : ∀ b, s.capture.burst = some b → b.age < 6) : finishAgedBurst s = s := by
  unfold finishAgedBurst
  split
  · next b hb => exact if_neg (Nat.not_le.mpr (h b hb))
  · rfl

theorem settling_eq_false_iff : settling s = false ↔ s.run.settle = none := by
  rw [settling, Option.isSome_eq_false_iff, Option.isNone_iff_eq_none]

theorem settling_iff : settling s = true ↔ s.run.settle ≠ none := by
  rw [settling, Option.isSome_iff_ne_none]

/-- A burst that opened or completes in a settle period gives no arrival; any other waits. -/
theorem finishBurst_of_discard {b : OpenBurst} (h : b.discard = true ∨ s.run.settle ≠ none) :
    finishBurst b s = { s with capture.burst := none } := by
  rw [finishBurst, if_pos]
  rwa [Bool.or_eq_true, settling_iff]

theorem finishBurst_of_kept {b : OpenBurst} (hdiscard : b.discard = false) (hsettle : s.run.settle = none) :
    finishBurst b s = { s with
      capture.burst := none, capture.arrivals := s.capture.arrivals ++ [assembleBurst b] } := by
  rw [finishBurst, hdiscard, settling_eq_false_iff.mpr hsettle]
  rfl

/-! ## What is made of it -/

theorem takeArrival_of_settling (h : s.run.settle ≠ none) (x : Burst) : takeArrival x s = s := by
  rw [takeArrival, if_pos (settling_iff.mpr h)]

theorem takeArrival_of_read (h : s.run.settle = none) {e : InFlight} {rest : List InFlight}
    (hflight : s.reads.inFlight = e :: rest) (x : Burst) : takeArrival x s = matchArrival e rest x s := by
  rw [takeArrival, settling_eq_false_iff.mpr h, hflight]
  rfl

theorem takeArrival_of_none (h : s.run.settle = none) (hflight : s.reads.inFlight = []) (x : Burst) :
    takeArrival x s = strayArrival s := by
  rw [takeArrival, settling_eq_false_iff.mpr h, hflight]
  rfl

theorem dataArrival_matched {x : Burst} {bursts : List Burst} {e : InFlight} {rest : List InFlight}
    (h : s.capture.arrivals = x :: bursts) (hsettle : s.run.settle = none) (hflight : s.reads.inFlight = e :: rest) :
    dataArrival s = matchArrival e rest x { s with capture.arrivals := bursts } :=
  (dataArrival_of_waiting h).trans (takeArrival_of_read (s := { s with capture.arrivals := bursts }) hsettle hflight x)

theorem checkFailLimit_eq (s : State) :
    checkFailLimit s = { s with messages.haltRequests := s.messages.haltRequests ++
      if s.reads.failLimit ≠ 0 ∧ s.reads.failLimit.toNat ≤ s.run.stats.miscompares.toNat then [.failLimit]
      else [] } := by
  unfold checkFailLimit
  split
  · rfl
  · rw [List.append_nil]

/-- A miscompare of an ordinary read: counted twice, offered, and checked against FAIL_LIMIT (R129, R131). -/
theorem routeMiscompare_eq (e : InFlight) (r : CompareResult) (s : State) :
    routeMiscompare e r s = { s with
      intake.queue := s.intake.queue.map fun d =>
        if d.seq = e.seq then { d with miscompares := satInc d.miscompares } else d
      run.stats.miscompares := satInc s.run.stats.miscompares
      messages.offers := s.messages.offers ++ [⟨e.addr, r.laneMask, r.beatMask, e.seq⟩]
      messages.haltRequests := s.messages.haltRequests ++
        if s.reads.failLimit ≠ 0 ∧ s.reads.failLimit.toNat ≤ (satInc s.run.stats.miscompares).toNat then
          [.failLimit] else [] } := by
  unfold routeMiscompare
  dsimp only
  rw [checkFailLimit_eq]
  rfl

/-- An arrival of an ordinary read with no sweep in hand. -/
theorem matchArrival_ordinary {e : InFlight} (he : e.sweepRead = false)
    (h : ∀ step w, s.expander ≠ .sweeping step w) (rest : List InFlight) (x : Burst) :
    matchArrival e rest x s =
      let r := compareBursts s.pattern.ignoreMask x (patternBurst e.pattern e.addr)
      let counted := countReadCompleted (completeAccess e.seq { s with reads.inFlight := rest })
      if r.miscompares = true then routeMiscompare e r counted else counted := by
  have hroute (r : CompareResult) (u : State) :
      routeResult e r u = if r.miscompares = true then routeMiscompare e r u else u := by
    rw [routeResult, he]
    rfl
  unfold matchArrival
  dsimp only
  rw [hroute, windDownSweep_of_not_sweeping]
  split
  · rw [routeMiscompare_eq]
    exact h
  · exact h

end Arrival

/-- Two changes to a descriptor with one seq, the first of which keeps it, are one. -/
theorem map_modify_modify {f g : Descriptor → Descriptor} (hf : ∀ d, (f d).seq = d.seq) (q : Seq)
    (l : List Descriptor) :
    (l.map fun d => if d.seq = q then f d else d).map (fun d => if d.seq = q then g d else d) =
      l.map fun d => if d.seq = q then g (f d) else d := by
  rw [List.map_map]
  refine List.map_congr_left fun d _ => ?_
  by_cases h : d.seq = q
  · simp only [Function.comp_apply, if_pos h, hf]
  · simp only [Function.comp_apply, if_neg h]

theorem satInc_half (x : BitVec 16) : satInc x = .ofNat 16 (min (x.toNat + 1) 65535) := satInc_eq x

/-- Settles O53: which burst the arrival takes, and what its read makes of it. -/
theorem arrivalsAreCompared : Obligations.ArrivalsAreCompared := by
  refine ⟨fun s hnone => ⟨fun b hb hage => ⟨fun h => congrArg Host.Outcome.next ?_,
      fun hdiscard hsettle => congrArg Host.Outcome.next ?_⟩, fun hyoung => congrArg Host.Outcome.next ?_⟩,
    fun s x rest h => ⟨fun hsettle hflight => congrArg Host.Outcome.next ?_,
      fun hsettle => congrArg Host.Outcome.next ?_⟩,
    fun s x bursts e rest h hsettle hflight he hsweep => ?_⟩
  · rw [dataArrival_of_none hnone, finishAgedBurst_of_aged hb hage, finishBurst_of_discard h]
    exact takeOldestArrival_of_none (s := { s with capture.burst := none }) hnone
  · rw [dataArrival_of_none hnone, finishAgedBurst_of_aged hb hage, finishBurst_of_kept hdiscard hsettle, hnone]
    rfl
  · rw [dataArrival_of_none hnone, finishAgedBurst_of_young hyoung, takeOldestArrival_of_none hnone]
  · refine (dataArrival_of_waiting h).trans
      ((takeArrival_of_none (s := { s with capture.arrivals := rest }) hsettle hflight x).trans ?_)
    rw [strayArrival, satInc_eq]
    rfl
  · exact (dataArrival_of_waiting h).trans
      (takeArrival_of_settling (s := { s with capture.arrivals := rest }) hsettle x)
  · intro r counted total
    have hmatched := (dataArrival_matched h hsettle hflight).trans
      (matchArrival_ordinary (s := { s with capture.arrivals := bursts }) he hsweep rest x)
    refine ⟨fun hr => congrArg Host.Outcome.next (hmatched.trans ((if_neg (by rw [hr]; decide)).trans ?_)),
      fun hr => congrArg Host.Outcome.next (hmatched.trans ((if_pos hr).trans ?_))⟩
    · simp only [counted, ← satInc_word]
      rfl
    · have hqueue : ((s.intake.queue.map fun d =>
            if d.seq = e.seq then d.completeAccess s.run.state else d).map fun d =>
              if d.seq = e.seq then { d with miscompares := satInc d.miscompares } else d) =
          (counted true).intake.queue := by
        rw [map_modify_modify (f := fun d => d.completeAccess s.run.state) fun _ => rfl]
        simp only [satInc_half]
        rfl
      have hstat : satInc s.run.stats.miscompares = .ofNat 16 total := satInc_half _
      have htotal : (BitVec.ofNat 16 total).toNat = total := hstat ▸ satInc_toNat s.run.stats.miscompares
      rw [routeMiscompare_eq]
      dsimp only [countReadCompleted, completeAccess, modifyDescriptor]
      simp only [hqueue, hstat, htotal, satInc_word]
      rfl

/-! ## Results of the sweep in hand (R130, R177, R181) -/

/-- An arrival of a read of the sweep in hand is a result for the sweep unit. -/
theorem matchArrival_sweep {s : State} {e : InFlight} {step : SweepStep} {w : Sweep} (he : e.sweepRead = true)
    (h : s.expander = .sweeping step w) (rest : List InFlight) (x : Burst) :
    matchArrival e rest x s = windDownSweep (sweepResult e.seq
      ((compareBursts s.pattern.ignoreMask x (patternBurst e.pattern e.addr)).byteLaneFails w.fields.lane)
      (countReadCompleted (completeAccess e.seq { s with reads.inFlight := rest }))) := by
  have hroute (r : CompareResult) {u : State} (hu : u.expander = s.expander) :
      routeResult e r u = sweepResult e.seq (r.byteLaneFails w.fields.lane) u := by
    rw [routeResult, if_pos he, routeSweepRead, hu, h]
  exact congrArg windDownSweep (hroute _ rfl)

/-- Settles O54: the result is counted or finishes the tap, and the wind-down follows. -/
theorem sweepArrivalIsCounted : Obligations.SweepArrivalIsCounted := by
  intro s x bursts e rest step w h hsettle hflight he hexpander hseq failed misses counted w' entered
  let u : State := countReadCompleted (completeAccess e.seq
    { s with capture.arrivals := bursts, reads.inFlight := rest })
  have hu : u = counted := by
    simp only [counted, ← satInc_word]
    rfl
  have hmatched : dataArrival s = windDownSweep (sweepResult w.seq failed counted) := by
    rw [hseq, ← hu]
    exact (dataArrival_matched h hsettle hflight).trans
      (matchArrival_sweep (s := { s with capture.arrivals := bursts }) he hexpander rest x)
  have hcounted (hgoes : w.abortMark = true ∨ w.endDue = true ∨ step ≠ .collect ∨ 2 ≤ w.readsOutstanding) :
      dataArrival s = windDownSweep { counted with expander := .sweeping step w' } :=
    hmatched.trans (congrArg windDownSweep (sweepResult_counted (s := counted) hexpander failed hgoes))
  have hfinished (hmark : w.abortMark = false) (hdue : w.endDue = false) (hstep : step = .collect)
      (hout : w.readsOutstanding = 1) : dataArrival s = windDownSweep (finishTap w' counted) := by
    subst hstep
    exact hmatched.trans (congrArg windDownSweep (sweepResult_last (s := counted) hexpander failed hmark hdue hout))
  refine ⟨fun hmark => ⟨fun hrest => congrArg Host.Outcome.next ?_, fun hrest => congrArg Host.Outcome.next ?_⟩,
    fun hmark hdue hgoes => congrArg Host.Outcome.next ?_,
    fun hmark hdue hstep hout hend => congrArg Host.Outcome.next ?_,
    fun hmark hdue hstep hout hnext hstop => congrArg Host.Outcome.next ?_⟩
  · refine (hcounted (.inl hmark)).trans
      ((windDownSweep_of_sweeping (s := { counted with expander := .sweeping step w' }) rfl).trans
        (if_pos ⟨hmark, hrest⟩))
  · refine (hcounted (.inl hmark)).trans
      ((windDownSweep_of_sweeping (s := { counted with expander := .sweeping step w' }) rfl).trans
        (if_neg fun hempty => hrest hempty.2))
  · exact (hcounted (.inr (.inr hgoes))).trans
      (windDownSweep_of_no_mark (s := { counted with expander := .sweeping step w' }) rfl hmark)
  · rw [hfinished hmark hdue hstep hout, finishTap_of_end (w := w') hend]
    exact windDownSweep_of_no_mark (w := { w' with endDue := true }) rfl hmark
  · rw [hfinished hmark hdue hstep hout, finishTap_of_next (w := w') hnext hstop]
    exact windDownSweep_of_no_mark
      (w := { w' with tapUnderTest := w.tapUnderTest + 1, readsPlaced := 0, mismatches := 0 }) rfl hmark

end Sys2Proof.Machine
end

/-!
Burst capture through the taps, and what the MT4 drives in a write data phase (R81, R191).
-/
section

namespace Sys2Proof.Machine

/-! ## What an assembled burst holds -/

/-- A byte lane of a captured beat holds what the byte lane captured there, or 0. -/
theorem capturedBeat_getLsbD (b : OpenBurst) (i : Nat) (k : Quad) {j : Nat} (hj : j < 8) :
    (capturedBeat b i).getLsbD (8 * k.num + j) = (((b.beats.get k)[i]?).getD 0).getLsbD j := by
  simp only [capturedBeat, BitVec.getLsbD_append, List.getD_eq_getElem?_getD]
  cases k with
  | q0 => simp [Quad.num, PerQuad.get, hj]
  | q1 => simp [Quad.num, PerQuad.get, hj]
  | q2 =>
    have hfar : ¬ 16 + j < 8 := by omega
    have hnear : 16 + j - 8 = 8 + j := by omega
    simp [Quad.num, PerQuad.get, hj, hfar, hnear]
  | q3 =>
    have hfar : ¬ 24 + j < 8 ∧ ¬ 16 + j < 8 := by omega
    have hnear : 24 + j - 8 = 16 + j ∧ 16 + j - 8 = 8 + j := by omega
    simp [Quad.num, PerQuad.get, hfar, hnear]

theorem num_ofNum_of_lt {n : Nat} (h : n < 4) : (Quad.ofNum n).num = n := by
  interval_cases n <;> rfl

theorem assembleBurst_getLsbD (b : OpenBurst) (i : Fin 8) (L : Fin 32) :
    (assembleBurst b)[i].getLsbD L.val =
      (((b.beats.get (.ofNum (L.val / 8)))[i.val]?).getD 0).getLsbD (L.val % 8) := by
  have hlane : (Quad.ofNum (L.val / 8)).num = L.val / 8 := num_ofNum_of_lt (by omega)
  have hL : 8 * (Quad.ofNum (L.val / 8)).num + L.val % 8 = L.val := by omega
  rw [← capturedBeat_getLsbD b i.val _ (Nat.mod_lt _ (by decide)), hL]
  simp [assembleBurst]

/-! ## What the MT4 drives (R81) -/

theorem inWritePhase_iff (s : State) :
    inWritePhase s = true ↔ ∃ p ∈ s.reads.writePhases, 1 ≤ p.remaining ∧ p.remaining ≤ 4 := by
  simp only [inWritePhase, List.any_eq_true, decide_eq_true_eq]
  rfl

theorem inWritePhase_eq_false_iff (s : State) :
    inWritePhase s = false ↔ ∀ p ∈ s.reads.writePhases, ¬ (1 ≤ p.remaining ∧ p.remaining ≤ 4) := by
  rw [← Bool.not_eq_true, inWritePhase_iff]
  simp only [not_exists, not_and]

theorem drivenBeats_of_none {s : State} (h : inWritePhase s = false) : drivenBeats s = none := by
  have hnone := (inWritePhase_eq_false_iff s).mp h
  rw [drivenBeats, Option.map_eq_none_iff, List.find?_eq_none]
  exact fun p hp => mt of_decide_eq_true (hnone p hp)

theorem drivenEdges_eq (s : State) (k : Quad) :
    drivenEdges s k = if inWritePhase s = true then [16, 48] else [] := rfl

/-- The oldest phase that crosses the lanes is the one driven. -/
theorem drivenBeats_of_split {s : State} {ahead behind : List WritePhase} {p : WritePhase}
    (h : s.reads.writePhases = ahead ++ p :: behind)
    (hahead : ∀ x ∈ ahead, ¬ (1 ≤ x.remaining ∧ x.remaining ≤ 4)) {j : Fin 4} (hj : p.remaining + j.val = 4) :
    drivenBeats s = some
      ((patternBurst p.pattern p.addr)[2 * j.val]'(by omega),
       (patternBurst p.pattern p.addr)[2 * j.val + 1]'(by omega)) := by
  have hfind : s.reads.writePhases.find?
      (fun p => decide (1 ≤ p.remaining ∧ p.remaining ≤ Config.dataPhase)) = some p := by
    refine List.find?_eq_some_iff_append.mpr ⟨decide_eq_true ⟨by omega, ?_⟩, ahead, behind, h, fun x hx => ?_⟩
    · change p.remaining ≤ 4
      omega
    · exact Bool.not_eq_true' _ ▸ (decide_eq_false (hahead x hx))
  have hbeat : 2 * (Config.dataPhase - p.remaining) = 2 * j.val := by
    change 2 * (4 - p.remaining) = _
    omega
  have hget (v : Burst) {i : Nat} (hi : i < 8) : v.toList.getD i 0 = v[i] := by simp [hi]
  rw [drivenBeats, hfind]
  simp only [Option.map_some, hbeat]
  rw [hget _ (by omega), hget _ (by omega)]

/-! ## Strobe edges (R191) -/

section Edge

variable {s : State} {k : Quad} {position : Nat} {value : Byte} {b : OpenBurst}

theorem finishBefore_of_none (h : s.capture.burst = none) : finishBefore position s = s := by
  rw [finishBefore, h]

theorem finishBefore_of_ended (h : s.capture.burst = some b)
    (hspan : b.position + 384 ≤ 64 * b.age + position) : finishBefore position s = finishBurst b s := by
  rw [finishBefore, h]
  refine if_pos ?_
  change 384 ≤ 64 * b.age + position - b.position
  omega

theorem finishBefore_of_open (h : s.capture.burst = some b)
    (hspan : 64 * b.age + position < b.position + 384) : finishBefore position s = s := by
  rw [finishBefore, h]
  refine if_neg ?_
  change ¬ 384 ≤ 64 * b.age + position - b.position
  omega

/-- A burst that is full or aged out is closed; unless a settle period touches it, it becomes an arrival. -/
theorem finishBurst_eq (b : OpenBurst) (s : State) :
    finishBurst b s = { s with
      capture.burst := none
      capture.arrivals := s.capture.arrivals ++
        if b.discard = true ∨ s.run.settle ≠ none then [] else [assembleBurst b] } := by
  split
  · next h => rw [finishBurst_of_discard h, List.append_nil]
  · next h =>
    rw [not_or, Bool.not_eq_true, not_not] at h
    obtain ⟨hdiscard, hsettle⟩ := h
    exact finishBurst_of_kept hdiscard hsettle

/-- An edge too late to join, or of a byte lane with its 8 beats, captures nothing. -/
theorem captureBeat_ignored
    (h : (b.beats.get k = [] ∧ b.position + 128 < 64 * b.age + position) ∨ 8 ≤ (b.beats.get k).length) :
    captureBeat b k position value = b := by
  unfold captureBeat
  split
  · next hl =>
    refine if_neg ?_
    change ¬ 64 * b.age + position - b.position ≤ 128
    rw [hl] at h
    simp only [true_and, List.length_nil] at h
    omega
  · next hl => exact if_neg (by simp_all)

/-- An edge of a byte lane that has joined or may join captures one beat. -/
theorem captureBeat_taken (hjoin : ¬ (b.beats.get k = [] ∧ b.position + 128 < 64 * b.age + position))
    (hroom : (b.beats.get k).length < 8) :
    captureBeat b k position value =
      { b with beats := b.beats.modify k fun _ => b.beats.get k ++ [value] } := by
  unfold captureBeat
  split
  · next hl =>
    rw [hl, List.nil_append]
    refine if_pos ?_
    change 64 * b.age + position - b.position ≤ 128
    simp only [hl, true_and] at hjoin
    omega
  · rw [if_pos hroom]
    congr 1
    refine PerQuad.ext_get fun j => ?_
    simp only [PerQuad.get_modify]
    split
    · next hj => rw [hj]
    · rfl

theorem burstFull_iff (b : OpenBurst) : burstFull b = true ↔ ∀ j, (b.beats.get j).length ∈ [0, 8] := by
  have hlane (l : List Byte) : (l.isEmpty || l.length == 8) = true ↔ l.length ∈ [0, 8] := by
    simp [List.isEmpty_iff]
  simp only [burstFull, PerQuad.toList, List.all_cons, List.all_nil, Bool.and_true, Bool.and_eq_true, hlane]
  constructor
  · rintro ⟨h0, h1, h2, h3⟩ j
    cases j <;> assumption
  · intro h
    exact ⟨h .q0, h .q1, h .q2, h .q3⟩

theorem takeEdge_of_none (h : s.capture.burst = none) :
    takeEdge k position value s = { s with capture.burst := some (openBurst k position value s) } := by
  rw [takeEdge, h]

theorem takeEdge_of_full (h : s.capture.burst = some b) (hfull : burstFull (captureBeat b k position value) = true) :
    takeEdge k position value s = finishBurst (captureBeat b k position value) s := by
  rw [takeEdge, h]
  exact if_pos hfull

theorem takeEdge_of_open (h : s.capture.burst = some b)
    (hfull : ¬ burstFull (captureBeat b k position value) = true) :
    takeEdge k position value s = { s with capture.burst := some (captureBeat b k position value) } := by
  rw [takeEdge, h]
  exact if_neg hfull

end Edge

theorem strobeEdge_of_phase {s : State} (h : inWritePhase s = true) (k : Quad) (position : Fin 64)
    (samples : Vector Byte 32) : strobeEdge k position samples s = s := if_pos h

theorem strobeEdge_of_free {s : State} (h : inWritePhase s = false) (k : Quad) (position : Fin 64)
    (samples : Vector Byte 32) : strobeEdge k position samples s =
      takeEdge k position.val (capturePoint s k samples) (finishBefore position.val s) := by
  rw [strobeEdge, h]
  rfl

/-- Settles O55: the edge opens a burst, finds one ended, or is captured into the open one. -/
theorem strobeEdgesCapture : Obligations.StrobeEdgesCapture := by
  refine ⟨assembleBurst_getLsbD, fun s => ⟨fun h => ?_, fun ahead p behind h hahead j hj =>
    ⟨drivenBeats_of_split h hahead hj, fun k => ?_⟩⟩, fun s k position samples => ?_⟩
  · have hfree := (inWritePhase_eq_false_iff s).mpr h
    exact ⟨drivenBeats_of_none hfree, fun k => by rw [drivenEdges_eq, hfree]; rfl⟩
  · rw [drivenEdges_eq, if_pos]
    exact (inWritePhase_iff s).mpr ⟨p, by simp [h], by omega⟩
  · intro value
    refine ⟨fun hphase => congrArg Host.Outcome.next (strobeEdge_of_phase ((inWritePhase_iff s).mpr hphase) _ _ _),
      fun hphases => ?_⟩
    have hfree := (inWritePhase_eq_false_iff s).mpr hphases
    have hedge : strobeEdge k position samples s = takeEdge k position.val value (finishBefore position.val s) :=
      strobeEdge_of_free hfree k position samples
    refine ⟨fun hnone => ⟨_, congrArg Host.Outcome.next
        (hedge.trans ((congrArg _ (finishBefore_of_none hnone)).trans (takeEdge_of_none hnone))), rfl,
        _, rfl, rfl, rfl, rfl, fun j => ?_⟩,
      fun b hb hspan => congrArg Host.Outcome.next ?_, fun b hb hspan => ?_⟩
    · simp [openBurst]
    · rw [hedge, finishBefore_of_ended hb hspan, ← finishBurst_eq]
      have hfree' : inWritePhase (finishBurst b s) = false := by rw [finishBurst_eq]; exact hfree
      have hnone : (finishBurst b s).capture.burst = none := by rw [finishBurst_eq]
      have hvalue : capturePoint (finishBurst b s) k samples = value := by rw [finishBurst_eq]; rfl
      rw [strobeEdge_of_free hfree', finishBefore_of_none hnone, hvalue]
    · intro l late
      rw [finishBefore_of_open hb hspan] at hedge
      have hlanes (hjoin : ¬ (l = [] ∧ late)) (hroom : l.length < 8) :
          captureBeat b k position.val value =
            { b with beats := b.beats.modify k fun _ => l ++ [value] } := captureBeat_taken hjoin hroom
      have hfull (hjoin : ¬ (l = [] ∧ late)) (hseven : l.length = 7)
          (hothers : ∀ j, j ≠ k → (b.beats.get j).length ∈ [0, 8]) :
          takeEdge k position.val value s =
            finishBurst { b with beats := b.beats.modify k fun _ => l ++ [value] } s := by
        have hbeats := hlanes hjoin (by omega)
        rw [← hbeats]
        refine takeEdge_of_full hb ?_
        rw [hbeats, burstFull_iff]
        intro j
        rw [PerQuad.get_modify]
        split
        · simp [hseven]
        · next hj => exact hothers j hj
      refine ⟨fun hignored hopen => congrArg Host.Outcome.next (hedge.trans ?_),
        fun hjoin hroom hopen _ => congrArg Host.Outcome.next (hedge.trans ?_),
        fun hjoin hseven hothers hsettle => congrArg Host.Outcome.next (hedge.trans ?_),
        fun hjoin hseven hothers hdiscard hsettle => congrArg Host.Outcome.next (hedge.trans ?_)⟩
      · have hsame : captureBeat b k position.val value = b := captureBeat_ignored hignored
        obtain ⟨j, hj⟩ := hopen
        have hopen : ¬ burstFull (captureBeat b k position.val value) = true := by
          rw [hsame, burstFull_iff]
          exact fun h => hj (h j)
        rw [takeEdge_of_open hb hopen, hsame, ← hb]
      · have hbeats := hlanes hjoin hroom
        obtain ⟨j, hpos, hlt⟩ := hopen
        rw [takeEdge_of_open hb, hbeats]
        rw [hbeats, burstFull_iff]
        intro h
        have := h j
        simp only [List.mem_cons, List.not_mem_nil, or_false] at this
        omega
      · rw [hfull hjoin hseven hothers]
        exact finishBurst_of_discard hsettle
      · rw [hfull hjoin hseven hothers]
        exact finishBurst_of_kept hdiscard hsettle

end Sys2Proof.Machine
end

/-!
The placement of a region's bursts and the steps of a sweep (R28–R32, R175, R176, R179, R180).
-/
section

namespace Sys2Proof.Machine

/-! ## The walk of a region (R28, R31) -/

section Walk

variable {r : Region} {row col : Nat}

theorem nextBurst_rowMajor (h : r.walk = .rowMajor) :
    nextBurst r row col =
      if col + 1 < r.colFirst + r.colCount then some (row, col + 1)
      else if row + 1 < r.rowFirst + r.rowCount then some (row + 1, r.colFirst)
      else none := by
  rw [nextBurst, h]

theorem nextBurst_columnMajor (h : r.walk = .columnMajor) :
    nextBurst r row col =
      if row + 1 < r.rowFirst + r.rowCount then some (row + 1, col)
      else if col + 1 < r.colFirst + r.colCount then some (r.rowFirst, col + 1)
      else none := by
  rw [nextBurst, h]

/-- The walk has no burst after the last row's last column. -/
theorem nextBurst_last (hrow : row + 1 = r.rowFirst + r.rowCount) (hcol : col + 1 = r.colFirst + r.colCount) :
    nextBurst r row col = none := by
  cases h : r.walk with
  | rowMajor => rw [nextBurst_rowMajor h, if_neg (by omega), if_neg (by omega)]
  | columnMajor => rw [nextBurst_columnMajor h, if_neg (by omega), if_neg (by omega)]

theorem endsRowVisit_rowMajor (h : r.walk = .rowMajor) (hcol : col < r.colFirst + r.colCount) :
    endsRowVisit r row col = true ↔ col + 1 = r.colFirst + r.colCount := by
  rw [endsRowVisit, nextBurst_rowMajor h]
  by_cases hlast : col + 1 < r.colFirst + r.colCount
  · simp only [if_pos hlast, bne_self_eq_false, Bool.false_eq_true, false_iff]
    omega
  · have hcol' : col + 1 = r.colFirst + r.colCount := by omega
    rw [if_neg hlast]
    by_cases hrow : row + 1 < r.rowFirst + r.rowCount
    · simp [if_pos hrow, hcol']
    · simp [if_neg hrow, hcol']

/-- A column-major walk leaves the row at each burst, unless it has one row alone. -/
theorem endsRowVisit_columnMajor (h : r.walk = .columnMajor) (hfirst : r.rowFirst ≤ row)
    (hrow : row < r.rowFirst + r.rowCount) (hcol : col < r.colFirst + r.colCount) :
    endsRowVisit r row col = true ↔ 2 ≤ r.rowCount ∨ col + 1 = r.colFirst + r.colCount := by
  rw [endsRowVisit, nextBurst_columnMajor h]
  by_cases hlast : row + 1 < r.rowFirst + r.rowCount
  · simp only [if_pos hlast, bne_iff_ne]
    omega
  · by_cases hlast' : col + 1 < r.colFirst + r.colCount
    · simp only [if_neg hlast, if_pos hlast', bne_iff_ne]
      omega
    · simp only [if_neg hlast, if_neg hlast', true_iff]
      omega

theorem closeAfter_iff (last : Bool) :
    closeAfter r row col last = true ↔
      r.close = .closeEach ∨ (r.close = .closeRowEnd ∧ last = true ∧ endsRowVisit r row col = true) := by
  unfold closeAfter
  cases r.close <;> simp

end Walk

/-! ## The placement of a burst (R29, R32) -/

section Place

variable {s : State} {ahead behind : List Descriptor} {d : Descriptor} {r : Region} {row col : Nat}
  (hexpander : s.expander = .expanding d.seq row col) (hqueue : s.intake.queue = ahead ++ d :: behind)
  (hothers : ∀ x ∈ ahead ++ behind, x.seq ≠ d.seq) (hwork : d.work = .region r)
include hexpander

theorem accessPlacement_of_not_works (h : ¬ s.run.state.works = true) : accessPlacement s = s := by
  rw [accessPlacement, hexpander]
  exact if_neg h

include hqueue hothers hwork

theorem accessPlacement_of_works (h : s.run.state.works = true) :
    accessPlacement s = placeBurst d.seq r row col s := by
  have hfind := findDescriptor_one hqueue fun x hx => hothers x (List.mem_append_left _ hx)
  rw [accessPlacement, hexpander]
  dsimp only
  rw [if_pos h, hfind, Option.map_some, hwork]

end Place

theorem placeBurst_of_full {s : State} {q : Seq} {r : Region} {row col : Nat}
    (h : ¬ s.window.length + (burstAccesses s q r row col).length ≤ 16) : placeBurst q r row col s = s :=
  if_neg h

theorem placeBurst_next {s : State} {q : Seq} {r : Region} {row col row' col' : Nat}
    (h : s.window.length + (burstAccesses s q r row col).length ≤ 16)
    (hnext : nextBurst r row col = some (row', col')) :
    placeBurst q r row col s = { s with
      window := s.window ++ burstAccesses s q r row col, expander := .expanding q row' col' } := by
  refine (if_pos h).trans ?_
  rw [hnext]
  rfl

theorem placeBurst_last {s : State} {q : Seq} {r : Region} {row col : Nat}
    (h : s.window.length + (burstAccesses s q r row col).length ≤ 16) (hnext : nextBurst r row col = none) :
    placeBurst q r row col s =
      examine (setExpander .idle (setLife q .expanded (place (burstAccesses s q r row col) s))) := by
  refine (if_pos h).trans ?_
  rw [hnext]

/-- Settles O56: the walk's next burst in each order, and the end of a row visit as the obligation has it. -/
theorem placementWalksTheRegion : Obligations.PlacementWalksTheRegion := by
  intro s ahead behind d r row col hexpander hqueue hothers hwork hrow hrow' hcol hcol' lastRow lastCol endsVisit
    mark hmark make placed works room moved
  have hends : endsRowVisit r row col = true ↔ endsVisit := by
    simp only [endsVisit]
    cases hwalk : r.walk with
    | rowMajor => exact endsRowVisit_rowMajor hwalk hcol'
    | columnMajor => exact endsRowVisit_columnMajor hwalk hrow hrow' hcol'
  have hclose (last : Bool) : closeAfter r row col last = mark last := by
    rw [Bool.eq_iff_iff, hmark, closeAfter_iff, hends]
  have hplaced : burstAccesses s d.seq r row col = placed := by
    simp only [burstAccesses, makeAccess, hclose]
    rfl
  have hworks : s.run.state.works = true ↔ works := works_iff _
  have hroom : s.window.length + (burstAccesses s d.seq r row col).length ≤ 16 ↔ room := by rw [hplaced]
  have hburst (h : works) : accessPlacement s = placeBurst d.seq r row col s :=
    accessPlacement_of_works hexpander hqueue hothers hwork (hworks.mpr h)
  have hmoves {row' col' : Nat} (h : works) (h' : room) (hnext : nextBurst r row col = some (row', col')) :
      exec .accessPlacement s = moved row' col' := by
    refine congrArg Host.Outcome.next ((hburst h).trans ((placeBurst_next (hroom.mpr h') hnext).trans ?_))
    rw [hplaced]
  refine ⟨fun h => congrArg Host.Outcome.next ?_, fun h h' => ⟨fun hwalk => ⟨fun hlast => hmoves h h' ?_,
    fun hlast hrows => hmoves h h' ?_⟩, fun hwalk => ⟨fun hlast => hmoves h h' ?_,
      fun hlast hcols => hmoves h h' ?_⟩, fun hlast hlast' => congrArg Host.Outcome.next ?_⟩⟩
  · by_cases hw : works
    · rw [hburst hw]
      exact placeBurst_of_full (mt hroom.mp (h.resolve_left (not_not_intro hw)))
    · exact accessPlacement_of_not_works hexpander (mt hworks.mp hw)
  · rw [nextBurst_rowMajor hwalk, if_pos (by omega)]
  · rw [nextBurst_rowMajor hwalk, if_neg (by omega), if_pos (by omega)]
  · rw [nextBurst_columnMajor hwalk, if_pos (by omega)]
  · rw [nextBurst_columnMajor hwalk, if_neg (by omega), if_pos (by omega)]
  · refine (hburst h).trans ((placeBurst_last (hroom.mpr h') (nextBurst_last hlast hlast')).trans ?_)
    have hahead : ∀ x ∈ ahead, x.seq ≠ d.seq := fun x hx => hothers x (List.mem_append_left _ hx)
    have hbehind : ∀ x ∈ behind, x.seq ≠ d.seq := fun x hx => hothers x (List.mem_append_right _ hx)
    rw [hplaced, setLife_one (s := place placed s) hqueue hahead hbehind]
    rfl

/-! ## The steps of a sweep (R175, R176) -/

/-- Settles O57: each step is one test and one record update. -/
theorem sweepStepsAdvance : Obligations.SweepStepsAdvance := by
  intro s w works
  have hworks : s.run.state.works = true ↔ works := works_iff _
  refine ⟨fun h => ⟨fun hw hflight hstop => congrArg Host.Outcome.next ?_,
    fun hnot => congrArg Host.Outcome.next ?_⟩, fun h => ⟨fun hw hroom => congrArg Host.Outcome.next ?_,
      fun hnot => congrArg Host.Outcome.next ?_⟩⟩
  · rw [sweepTapSet, h]
    exact if_pos ⟨hworks.mpr hw, hflight, hstop⟩
  · rw [sweepTapSet, h]
    refine if_neg ?_
    rintro ⟨hw, hflight, hstop⟩
    rcases hnot with hnot | hnot | hnot
    · exact hnot (hworks.mp hw)
    · exact hnot hflight
    · exact absurd (hnot.symm.trans hstop) (by decide)
  · rw [sweepReadPlacement, h]
    exact if_pos ⟨hworks.mpr hw, hroom⟩
  · rw [sweepReadPlacement, h]
    refine if_neg ?_
    rintro ⟨hw, hroom⟩
    rcases hnot with hnot | hnot
    · exact hnot (hworks.mp hw)
    · exact absurd hroom (Nat.not_lt.mpr hnot)

end Sys2Proof.Machine
end

/-!
The window search and the end of a sweep, the run state events, and retirement (R157, R161, R162, R165, R166, R178).
-/
section

namespace Sys2Proof.Machine

/-! ## The window search (R178) -/

/-- `n` taps in a row from `f`, at least one, that lie in [lo, hi) and are all good. -/
def GoodRun (good : Nat → Bool) (lo hi f n : Nat) : Prop :=
  1 ≤ n ∧ lo ≤ f ∧ f + n ≤ hi ∧ ∀ t, f ≤ t → t < f + n → good t = true

/-- The longest good run in [lo, hi), the lowest of equals, or none. -/
def IsLongestRun (good : Nat → Bool) (lo hi : Nat) : Option (Nat × Nat) → Prop
  | none => ∀ f n, ¬ GoodRun good lo hi f n
  | some (f, n) => GoodRun good lo hi f n ∧ ∀ f' n', GoodRun good lo hi f' n' → n' < n ∨ (n' = n ∧ f ≤ f')

/-- `width` good taps end just before `t`, and no more. -/
def EndsRun (good : Nat → Bool) (lo t width : Nat) : Prop :=
  lo + width ≤ t ∧ (∀ x, t - width ≤ x → x < t → good x = true) ∧
    ∀ f, lo ≤ f → f ≤ t → (∀ x, f ≤ x → x < t → good x = true) → t ≤ f + width

section Search

variable {good : Nat → Bool} {lo t width : Nat} {best : Option (Nat × Nat)}

theorem goodRun_succ_of_lt {f n : Nat} (h : GoodRun good lo (t + 1) f n) (hend : f + n ≤ t) :
    GoodRun good lo t f n := by
  obtain ⟨hn, hlo, -, hgood⟩ := h
  exact ⟨hn, hlo, hend, hgood⟩

theorem GoodRun.mono {f n : Nat} (h : GoodRun good lo t f n) : GoodRun good lo (t + 1) f n := by
  obtain ⟨hn, hlo, hhi, hgood⟩ := h
  exact ⟨hn, hlo, by omega, hgood⟩

/-- A good tap lengthens the run that ends before it. -/
theorem EndsRun.succ (h : EndsRun good lo t width) (hgood : good t = true) :
    EndsRun good lo (t + 1) (width + 1) := by
  obtain ⟨hlo, hwidth, hmax⟩ := h
  refine ⟨by omega, fun x hx hxt => ?_, fun f hf hft hall => ?_⟩
  · by_cases hx' : x = t
    · rw [hx']
      exact hgood
    · exact hwidth x (by omega) (by omega)
  · by_cases hft' : f = t + 1
    · omega
    · have := hmax f hf (by omega) fun x hx hxt => hall x hx (by omega)
      omega

/-- After a tap that is not good no run goes on. -/
theorem EndsRun.of_bad (hlo : lo ≤ t) (hbad : ¬ good t = true) : EndsRun good lo (t + 1) 0 := by
  refine ⟨by omega, fun x hx hxt => absurd hxt (by omega), fun f hf hft hall => ?_⟩
  by_contra hlt
  exact hbad (hall t (by omega) (by omega))

/-- A good run of [lo, t + 1) that is none of [lo, t) ends with `t` and is no longer than the one counted. -/
theorem GoodRun.le_of_ends {f n : Nat} (hends : EndsRun good lo t width) (h : GoodRun good lo (t + 1) f n)
    (hend : t < f + n) : f + n = t + 1 ∧ n ≤ width + 1 := by
  obtain ⟨hn, hlo, hhi, hall⟩ := h
  have := hends.2.2 f hlo (by omega) fun x hx hxt => hall x hx (by omega)
  omega

theorem isLongestRun_of_bad (h : IsLongestRun good lo t best) (hbad : ¬ good t = true) :
    IsLongestRun good lo (t + 1) best := by
  have hsame (f n : Nat) : GoodRun good lo (t + 1) f n → GoodRun good lo t f n := fun hrun => by
    refine goodRun_succ_of_lt hrun (not_lt.mp fun hlt => ?_)
    obtain ⟨hn, -, hhi, hall⟩ := hrun
    exact hbad (hall t (by omega) hlt)
  cases best with
  | none => exact fun f n hrun => h f n (hsame f n hrun)
  | some p => exact ⟨h.1.mono, fun f n hrun => h.2 f n (hsame f n hrun)⟩

/-- The run that ends with a good tap replaces the best one exactly when it is longer. -/
theorem isLongestRun_of_good (h : IsLongestRun good lo t best) (hends : EndsRun good lo t width)
    (hgood : good t = true) :
    IsLongestRun good lo (t + 1)
      (if (best.map Prod.snd).getD 0 < width + 1 then some (t - width, width + 1) else best) := by
  obtain ⟨hlo, hwidth, -⟩ := hends.succ hgood
  have hnew : GoodRun good lo (t + 1) (t - width) (width + 1) :=
    ⟨by omega, by omega, by omega, fun x hx hxt => hwidth x (by omega) (by omega)⟩
  cases best with
  | none =>
    refine ⟨hnew, fun f n hrun => ?_⟩
    by_cases hend : f + n ≤ t
    · exact absurd (goodRun_succ_of_lt hrun hend) (h f n)
    · have := GoodRun.le_of_ends hends hrun (not_le.mp hend)
      omega
  | some p =>
    obtain ⟨f₀, n₀⟩ := p
    obtain ⟨hbest, hmost⟩ := h
    simp only [Option.map_some, Option.getD_some]
    split
    · refine ⟨hnew, fun f n hrun => ?_⟩
      by_cases hend : f + n ≤ t
      · have := hmost f n (goodRun_succ_of_lt hrun hend)
        omega
      · have := GoodRun.le_of_ends hends hrun (not_le.mp hend)
        omega
    · refine ⟨hbest.mono, fun f n hrun => ?_⟩
      by_cases hend : f + n ≤ t
      · exact hmost f n (goodRun_succ_of_lt hrun hend)
      · have := GoodRun.le_of_ends hends hrun (not_le.mp hend)
        obtain ⟨-, -, hhi, -⟩ := hbest
        omega

theorem longestRun_isLongest (n : Nat) (hends : EndsRun good lo t width) (h : IsLongestRun good lo t best) :
    IsLongestRun good lo (t + n) (longestRun good (List.range' t n) width best) := by
  induction n generalizing t width best with
  | zero => exact h
  | succ n ih =>
    have hplace : t + (n + 1) = t + 1 + n := by omega
    rw [List.range'_succ, longestRun, hplace]
    split
    · next hgood => exact ih (hends.succ hgood) (isLongestRun_of_good h hends hgood)
    · next hbad => exact ih (.of_bad (by have := hends.1; omega) hbad) (isLongestRun_of_bad h hbad)

end Search

/-- The longest run is the only one of its kind. -/
theorem IsLongestRun.eq_some {good : Nat → Bool} {lo hi f n : Nat} {best : Option (Nat × Nat)}
    (h : IsLongestRun good lo hi best) (h' : IsLongestRun good lo hi (some (f, n))) : best = some (f, n) := by
  obtain ⟨hrun, hmost⟩ := h'
  cases best with
  | none => exact absurd hrun (h f n)
  | some p =>
    obtain ⟨hrun', hmost'⟩ := h
    have := hmost p.1 p.2 hrun'
    have := hmost' f n hrun
    have hp : p.1 = f ∧ p.2 = n := by omega
    rw [← hp.1, ← hp.2]

theorem IsLongestRun.eq_none {good : Nat → Bool} {lo hi : Nat} {best : Option (Nat × Nat)}
    (h : IsLongestRun good lo hi best) (hnone : ∀ f n, ¬ GoodRun good lo hi f n) : best = none := by
  cases best with
  | none => rfl
  | some p => exact absurd h.1 (hnone p.1 p.2)

theorem tapIsGood_iff (s : State) (t : Nat) :
    tapIsGood s t = true ↔ sweepEntryAt s (.ofNat 5 t) = ⟨true, 0⟩ := by
  unfold tapIsGood
  cases sweepEntryAt s (.ofNat 5 t)
  simp only [Bool.and_eq_true, beq_iff_eq, SweepEntry.mk.injEq]

/-- The window of a sweep is the longest run of good taps between its first and its last. -/
theorem sweepWindow_isLongest (s : State) (f : SweepFields) :
    IsLongestRun (tapIsGood s) f.tapFirst.toNat
      (f.tapFirst.toNat + (f.tapLast.toNat + 1 - f.tapFirst.toNat)) (sweepWindow s f) :=
  longestRun_isLongest _ ⟨by omega, fun x hx hxt => absurd hxt (by omega), fun _ hf _ _ => hf⟩
    fun g n h => by
      obtain ⟨hn, hlo, hhi, -⟩ := h
      omega

/-! ## The end of a sweep (R178, R179) -/

theorem sweepMayEnd_iff (step : SweepStep) (w : Sweep) (s : State) :
    sweepMayEnd step w s = true ↔ (s.run.state = .running ∨ s.run.state = .draining) ∧
      s.reads.inFlight = [] ∧ (w.endDue = true ∨ (step = .settle ∧ w.stopMark = true)) := by
  simp only [sweepMayEnd, Bool.and_eq_true, Bool.or_eq_true, works_iff, List.isEmpty_iff, beq_iff_eq, and_assoc]

/-- Settles O58: the search keeps the longest run scanned so far (`longestRun_isLongest`), which is unique. -/
theorem sweepEndsWithWindow : Obligations.SweepEndsWithWindow := by
  intro s step w hexpander hworks hflight hdue isRun ended
  have hend {window : Option (Nat × Nat)} (hwindow : sweepWindow s w.fields = window) :
      exec .sweepEnd s = ended (resultOfWindow w window) := by
    refine congrArg Host.Outcome.next ?_
    rw [sweepEnd, hexpander]
    refine (if_pos ((sweepMayEnd_iff step w s).mpr ⟨hworks, hflight, hdue⟩)).trans ?_
    rw [hwindow]
    cases window <;> rfl
  have hrun (f n : Nat) : GoodRun (tapIsGood s) w.fields.tapFirst.toNat
      (w.fields.tapFirst.toNat + (w.fields.tapLast.toNat + 1 - w.fields.tapFirst.toNat)) f n ↔ isRun f n := by
    simp only [GoodRun, tapIsGood_iff, isRun, ← and_assoc]
    refine and_congr_left fun _ => ?_
    omega
  have hlongest := sweepWindow_isLongest s w.fields
  refine ⟨fun first width hfirst hmost => ?_, fun hnone => ?_⟩
  · exact hend (hlongest.eq_some ⟨(hrun first width).mpr hfirst, fun f n h => hmost f n ((hrun f n).mp h)⟩)
  · exact hend (hlongest.eq_none fun f n h => hnone f n ((hrun f n).mp h))

/-! ## The run state events (R157, R161, R162) -/

theorem haltRequest_of_mem {c : HaltCause} {s : State} (h : c ∈ s.messages.haltRequests) :
    haltRequest c s = takeHalt c { s with messages.haltRequests := s.messages.haltRequests.erase c } := by
  rw [haltRequest, if_pos h, dropFirst_eq_erase]

theorem takeHalt_of_running {s : State} (h : s.run.state = .running) (c : HaltCause) :
    takeHalt c s = raiseFlag .halt
      { s with run.state := .halted, run.haltCause := some c, run.drainRequested := false } := by
  rw [takeHalt, h]

theorem takeHalt_of_draining {s : State} (h : s.run.state = .draining) (c : HaltCause) :
    takeHalt c s = raiseFlag .halt
      { s with run.state := .halted, run.haltCause := some c, run.drainRequested := true } := by
  rw [takeHalt, h]

theorem takeHalt_of_not_working {s : State} (h : s.run.state ≠ .running) (h' : s.run.state ≠ .draining)
    (c : HaltCause) : takeHalt c s = s := by
  unfold takeHalt
  split
  · next hrun => exact absurd hrun h
  · next hdrain => exact absurd hdrain h'
  · rfl

theorem satAdd_byte (x : Byte) (n : Nat) : satAdd x n = .ofNat 8 (min (x.toNat + n) 255) := satAdd_eq x n

/-- Settles O59: each event is one test, read as the proposition that the obligation states. -/
theorem runStateEvents : Obligations.RunStateEvents := by
  intro s
  refine ⟨fun c hc => ?_, fun c hc => congrArg Host.Outcome.next (if_neg hc), ?_, ?_⟩
  · intro taken halted
    have htaken : haltRequest c s = takeHalt c taken := haltRequest_of_mem hc
    exact ⟨fun hrun => congrArg Host.Outcome.next (htaken.trans (takeHalt_of_running (s := taken) hrun c)),
      fun hdrain => congrArg Host.Outcome.next (htaken.trans (takeHalt_of_draining (s := taken) hdrain c)),
      fun hrun hdrain =>
        congrArg Host.Outcome.next (htaken.trans (takeHalt_of_not_working (s := taken) hrun hdrain c))⟩
  · intro drainsNow
    have hmay : s.run.state = .draining ∧ drained s = true ↔ drainsNow := and_congr_right fun _ => drained_iff s
    exact ⟨fun h => congrArg Host.Outcome.next (if_pos (hmay.mpr h)),
      fun h => congrArg Host.Outcome.next (if_neg (mt hmay.mp h))⟩
  · intro endsNow
    have hmay : s.run.state = .aborting ∧ abortFinished s = true ↔ endsNow :=
      and_congr_right fun _ => abortFinished_iff s
    refine ⟨fun h => congrArg Host.Outcome.next ((if_pos (hmay.mpr h)).trans ?_),
      fun h => congrArg Host.Outcome.next (if_neg (mt hmay.mp h))⟩
    rw [← satAdd_byte]
    rfl

/-! ## Retirement (R165, R166) -/

theorem ne_zero_iff_one_le {n : Nat} (x : BitVec n) : x ≠ 0 ↔ 1 ≤ x.toNat := by
  rw [ne_eq, ← BitVec.toNat_inj, BitVec.ofNat_eq_ofNat, BitVec.toNat_zero]
  omega

theorem status_eq (d : Descriptor) :
    d.status = if d.cutShort = true then .cutShort else if 1 ≤ d.lost.toNat then .lost
      else if 1 ≤ d.miscompares.toNat then .miscompare else .done := by
  simp only [Descriptor.status, ne_zero_iff_one_le]

theorem detail_eq (d : Descriptor) :
    d.detail = match d.work with
      | .marker code => .marker code
      | .sweep _ => .sweep d.sweepResult
      | _ => .none := by
  unfold Descriptor.detail
  cases d.work <;> rfl

theorem retires_iff (st : RunState) :
    st.retires = true ↔ st = .running ∨ st = .draining ∨ st = .halted := by
  cases st <;> simp [RunState.retires]

/-- A marker raises its own flag with the completion's. -/
theorem retireHead_eq (d : Descriptor) (rest : List Descriptor) (s : State) :
    retireHead d rest s = { s with
      run.completions := s.run.completions ++ [d.record], intake.queue := rest
      run.flags := s.run.flags ||| match d.work with
        | .marker _ => 0b000011#6
        | _ => 0b000001#6 } := by
  have hboth (x : BitVec 6) : x ||| 0b000001#6 ||| 0b000010#6 = x ||| 0b000011#6 := by
    rw [BitVec.or_assoc]
    rfl
  unfold retireHead
  cases d.work with
  | marker c =>
    simp only [← hboth]
    rfl
  | _ => rfl

/-- Settles O60: the head's record and flags, field by field. -/
theorem retirementPostsRecord : Obligations.RetirementPostsRecord := by
  intro s
  refine ⟨fun d rest hqueue hlife hroom hstate => congrArg Host.Outcome.next ?_,
    fun h => congrArg Host.Outcome.next ?_⟩
  · rw [retirement, hqueue]
    refine (if_pos ⟨hlife, hroom, (retires_iff _).mpr hstate⟩).trans ?_
    rw [retireHead_eq, Descriptor.record, status_eq, detail_eq]
    rfl
  · unfold retirement
    split
    · next d rest hqueue =>
      refine if_neg ?_
      rintro ⟨hlife, hroom, hstate⟩
      have hroom : s.run.completions.length < 16 := hroom
      rw [retires_iff] at hstate
      rcases h with h | ⟨d', rest', hqueue', hlife'⟩ | h | h
      · rw [hqueue] at h
        cases h
      · rw [hqueue] at hqueue'
        exact hlife' ((List.cons.inj hqueue').1 ▸ hlife)
      · omega
      · rcases h with h | h <;> simp [h] at hstate
    · rfl

end Sys2Proof.Machine
end
